-- ==== Sys2Proof/Word.lean ====
section
/-! DEFINITION. Bytes, words and byte sequences of the CSB (00_scope.md R10, R11). -/

namespace Sys2Proof

/-- A byte (R10), kept as eight bits because R12 xors and ors bytes. -/
abbrev Byte := BitVec 8

/-- A 32-bit word (R11). -/
abbrev Word := BitVec 32

/-- A byte sequence (R10): index 0 is the first byte in time and the lowest address. -/
abbrev Bytes := List Byte

/-- A byte sequence of a fixed length. -/
abbrev BytesN (n : Nat) := { l : Bytes // l.length = n }

/-- A 16-byte block (R7, R15). -/
abbrev Block := BytesN 16

/-- The block size BLK (R7). -/
abbrev blockSize : Nat := 16

end Sys2Proof
end

