-- ==== Sys2Proof/Syntax.lean ====
section
/-! DEFINITION. The instructions of the CSB: one constructor per row of spec/opcode_table.json
(30_encoding.md R88 for the host commands, R92 for the engine requests). -/

namespace Sys2Proof

/-- A direction: the DIR bit of NEW and the DIR register (R24), and the direction tag DTAG of TRANSFORM (R92).
`enc` is 0 and `dec` is 1 in all three places (D16). -/
inductive Dir where
  | enc
  | dec
  deriving DecidableEq, Repr, Inhabited

/-- The instructions. A host command is its command word alone; its payload travels on the data-in channel (R81).
An engine request is its header word and the argument words that follow on the same port (R92). -/
inductive Instr where
  /-- NEW, format N (R82): DIR, PAD, IVP, IVLEN, KLEN. The mode tag is no operand (R110). -/
  | new (dir : Dir) (pad : Bool) (ivp : Bool) (ivlen : BitVec 8) (klen : BitVec 8)
  /-- PROCESS, format P (R83): the chunk length N. -/
  | process (n : BitVec 24)
  /-- FINISH, format F (R84). -/
  | finish
  /-- SET_KEY, format ES (R92, R170): the NW key words; NW is their number. -/
  | setKey (kw : List Word)
  /-- SET_IV, format EI (R92, R171): the four IV words. -/
  | setIv (w0 w1 w2 w3 : Word)
  /-- TRANSFORM, format ET (R92, R172): DTAG, OFF, NBYTES. -/
  | transform (d : Dir) (off nbytes : Word)
  deriving DecidableEq, Repr

end Sys2Proof
end

