-- ==== Sys2Proof/WellFormed.lean ====
section
/-! DEFINITION. Which instruction terms stand for encodable instructions (30_encoding.md R88, R89, R92). -/

namespace Sys2Proof

/-- The extra conditions on fields: NEW needs `IVP = 1 or IVLEN = 0` (R88), SET_KEY a key of 4, 6 or 8 words (R92). -/
def Instr.wellFormed : Instr → Bool
  | .new _ _ ivp ivlen _ => ivp || ivlen == 0
  | .process _ => true
  | .finish => true
  | .setKey kw => kw.length == 4 || kw.length == 6 || kw.length == 8
  | .setIv _ _ _ _ => true
  | .transform _ _ _ => true

/-- Whether the instruction is a request on the engine port (R92), not a host command (R88). -/
def Instr.onEnginePort : Instr → Bool
  | .new _ _ _ _ _ => false
  | .process _ => false
  | .finish => false
  | .setKey _ => true
  | .setIv _ _ _ _ => true
  | .transform _ _ _ => true

end Sys2Proof
end

