-- ==== Sys2Proof/Decode.lean ====
section
/-! DEFINITION. Decoding and encoding of host commands (30_encoding.md R82 to R91) and engine requests (R92),
and the byte order of words (20_memory.md R53). -/

namespace Sys2Proof

/-! ## Byte order of words (R53) -/

/-- The word whose bytes, most significant first, are `b0 b1 b2 b3` (R53). -/
def be32 (b0 b1 b2 b3 : Byte) : Word := b0 ++ b1 ++ b2 ++ b3

/-- The four bytes of a word, most significant first (R53). -/
def wordBytes (w : Word) : Bytes :=
  [w.extractLsb' 24 8, w.extractLsb' 16 8, w.extractLsb' 8 8, w.extractLsb' 0 8]

/-- A byte stream read as 32-bit words, most significant byte first; up to three trailing bytes make no word (R53). -/
def packWords : Bytes → List Word
  | b0 :: b1 :: b2 :: b3 :: t => be32 b0 b1 b2 b3 :: packWords t
  | _ => []

/-- The byte stream of a list of words (R53). -/
def unpackWords : List Word → Bytes
  | [] => []
  | w :: t => wordBytes w ++ unpackWords t

/-! ## Host commands (R82 to R84, R88, R89) -/

/-- Why a word or a sequence of words spells no instruction, each by name. -/
inductive DecodeError where
  /-- No word at all. -/
  | empty
  /-- `OP` is 0 or 4..15 (R89). -/
  | opcode
  /-- NEW with `MODE != 0` (R89). -/
  | modeTag
  /-- A field `Z` of a host command is not 0 (R89). -/
  | reservedBits
  /-- NEW with `IVP = 0` and `IVLEN != 0` (R89). -/
  | ivLengthWithoutIv
  /-- An engine header with `EOP = 0b00` (R92). -/
  | enginePortOpcode
  /-- An engine header with non-zero reserved bits (R92). -/
  | enginePortReservedBits
  /-- A SET_KEY header whose `NW` is not 4, 6 or 8 (R92). -/
  | keyWordCount
  /-- An engine request whose argument words are not all there (R92). -/
  | argumentWordsMissing
  deriving DecidableEq, Repr

/-- The direction a bit names (R24, R92). -/
def dirOfBit (b : BitVec 1) : Dir := if b = 0 then .enc else .dec

/-- The bit of a direction (R24, R92). -/
def dirBit : Dir → BitVec 1
  | .enc => 0
  | .dec => 1

/-- A one-bit field read as a condition. -/
def flagOfBit (b : BitVec 1) : Bool := b != 0

/-- The bit of a condition. -/
def flagBit (b : Bool) : BitVec 1 := if b then 1 else 0

/-- The decoder of command words: total, rejecting by name (R88, R89, R91). -/
def decodeCommand (w : Word) : Except DecodeError Instr :=
  if w.extractLsb' 28 4 = 1 then
    if w.extractLsb' 26 2 ≠ 0 then .error .modeTag
    else if w.extractLsb' 16 7 ≠ 0 then .error .reservedBits
    else if w.extractLsb' 23 1 = 0 ∧ w.extractLsb' 8 8 ≠ 0 then .error .ivLengthWithoutIv
    else .ok (.new (dirOfBit (w.extractLsb' 25 1)) (flagOfBit (w.extractLsb' 24 1))
      (flagOfBit (w.extractLsb' 23 1)) (w.extractLsb' 8 8) (w.extractLsb' 0 8))
  else if w.extractLsb' 28 4 = 2 then
    if w.extractLsb' 24 4 ≠ 0 then .error .reservedBits
    else .ok (.process (w.extractLsb' 0 24))
  else if w.extractLsb' 28 4 = 3 then
    if w.extractLsb' 0 28 ≠ 0 then .error .reservedBits
    else .ok .finish
  else .error .opcode

/-- Payload bytes on the data-in channel that a command announces (R90); an engine request has none there. -/
def payloadBytes : Instr → Nat
  | .new _ _ _ ivlen klen => klen.toNat + ivlen.toNat
  | .process n => n.toNat
  | .finish => 0
  | .setKey _ => 0
  | .setIv _ _ _ _ => 0
  | .transform _ _ _ => 0

/-! ## Engine requests (R92) -/

/-- Argument words that follow an engine header: NW for SET_KEY, 4 for SET_IV, 2 for TRANSFORM (R92). -/
def engineArgWords (hdr : Word) : Nat :=
  if hdr.extractLsb' 30 2 = 1 then (hdr.extractLsb' 0 4).toNat
  else if hdr.extractLsb' 30 2 = 2 then 4
  else if hdr.extractLsb' 30 2 = 3 then 2
  else 0

/-- The decoder of the engine port: the request at the head of the words and the words after it, rejecting by
name (R92). -/
def decodeRequest : List Word → Except DecodeError (Instr × List Word)
  | [] => .error .empty
  | hdr :: t =>
    if hdr.extractLsb' 30 2 = 1 then
      if hdr.extractLsb' 4 26 ≠ 0 then .error .enginePortReservedBits
      else if hdr.extractLsb' 0 4 = 4 ∨ hdr.extractLsb' 0 4 = 6 ∨ hdr.extractLsb' 0 4 = 8 then
        if t.length < (hdr.extractLsb' 0 4).toNat then .error .argumentWordsMissing
        else .ok (.setKey (t.take (hdr.extractLsb' 0 4).toNat), t.drop (hdr.extractLsb' 0 4).toNat)
      else .error .keyWordCount
    else if hdr.extractLsb' 30 2 = 2 then
      if hdr.extractLsb' 0 30 ≠ 0 then .error .enginePortReservedBits
      else match t with
        | w0 :: w1 :: w2 :: w3 :: rest => .ok (.setIv w0 w1 w2 w3, rest)
        | _ => .error .argumentWordsMissing
    else if hdr.extractLsb' 30 2 = 3 then
      if hdr.extractLsb' 1 29 ≠ 0 then .error .enginePortReservedBits
      else match t with
        | off :: nbytes :: rest => .ok (.transform (dirOfBit (hdr.extractLsb' 0 1)) off nbytes, rest)
        | _ => .error .argumentWordsMissing
    else .error .enginePortOpcode

/-! ## Both ports -/

/-- The instruction at the head of a list of words, whichever port they belong to: `OP` 1, 2, 3 of a host command
has zeros in bits 31:30, which no engine request has (R88, R92), so the two sets of words do not meet. -/
def decode : List Word → Except DecodeError (Instr × List Word)
  | [] => .error .empty
  | w :: t =>
    if w.extractLsb' 30 2 = 0 then
      match decodeCommand w with
      | .ok i => .ok (i, t)
      | .error e => .error e
    else decodeRequest (w :: t)

/-- The decoder on any bytes, each word sent most significant byte first (R53(a)). -/
def decodeBytes (bs : Bytes) : Except DecodeError (Instr × List Word) := decode (packWords bs)

/-! ## The encoder, from the same formats -/

/-- The words of an instruction (R82 to R84, R92). -/
def encode : Instr → List Word
  | .new dir pad ivp ivlen klen =>
    [0x1#4 ++ 0#2 ++ dirBit dir ++ flagBit pad ++ flagBit ivp ++ 0#7 ++ ivlen ++ klen]
  | .process n => [0x2#4 ++ 0#4 ++ n]
  | .finish => [0x30000000#32]
  | .setKey kw => (0b01#2 ++ 0#26 ++ BitVec.ofNat 4 kw.length) :: kw
  | .setIv w0 w1 w2 w3 => [0x80000000#32, w0, w1, w2, w3]
  | .transform d off nbytes => [0b11#2 ++ 0#29 ++ dirBit d, off, nbytes]

/-! ## Words numbered as the opcode table numbers their bits -/

/-- The first word of a number whose bit 0 is the least significant bit of the first word. -/
def tableHead (nbits w : Nat) : Word := BitVec.ofNat 32 (w % 2 ^ nbits)

/-- The words of the instruction whose bits are `w`: the first word, and as many later words as its header asks
for (R92), the bits above `nbits` being 0. -/
def tableWords (nbits w : Nat) : List Word :=
  tableHead nbits w ::
    (List.range (engineArgWords (tableHead nbits w))).map
      fun k => BitVec.ofNat 32 (w % 2 ^ nbits / 2 ^ (32 * (k + 1)))

/-- What the decoder reads from the instruction whose bits are `w`, laid out as bytes in the hardware's order. -/
def decodeTableWord (nbits w : Nat) : Option Instr :=
  match decodeBytes (unpackWords (tableWords nbits w)) with
  | .ok (i, _) => some i
  | .error _ => none

end Sys2Proof
end

