-- ==== Sys2Proof/Config.lean ====
section
/-! DEFINITION. What an implementation fixes (00_scope.md R8), the cipher engine as a parameter (45_engine_port.md R173)
with its contract, and the free values of the model. Every constant of the machine at hand is opaque, without a body:
no proof can see its value. -/

namespace Sys2Proof

/-! ## The engine as a parameter (R173) -/

/-- A state of the engine, ES (R33): plain data. R179 gives every engine state a key and a chaining value (R16). `work`
is all the rest an engine holds, its own workspace region `WS[0..BASE)` with it (R32), in whatever coding it uses
(log entry 3). -/
structure EngineState where
  /-- The key the engine holds. -/
  key : Bytes
  /-- The chaining value CV (R16). -/
  cv : Block
  /-- Everything else. -/
  work : Bytes
  deriving DecidableEq, Repr

/-- The three total functions of an engine (R173). -/
structure Engine where
  /-- `set_key`. -/
  setKey : EngineState → Bytes → EngineState
  /-- `set_iv`. -/
  setIv : EngineState → Block → EngineState
  /-- `transformBytes`. It sees neither the place of the run nor any other workspace byte (EC1, EC2, EC7), and it
  returns no count (EC3). -/
  transformBytes : EngineState → Dir → Bytes → EngineState × Bytes

/-- What the CSB may assume of an engine: EC1 to EC8a (R173, R175 to R179), as far as the functions' types do not say it
already. The CBC structure of EC8 (R181) is not assumed (log entry 2). -/
structure EngineContract (e : Engine) : Prop where
  /-- EC8a: the key after `set_key`. -/
  setKey_key : ∀ es k, k.length = 16 ∨ k.length = 24 ∨ k.length = 32 → (e.setKey es k).key = k
  /-- EC8a: `set_iv` keeps the key. -/
  setIv_key : ∀ es v, (e.setIv es v).key = es.key
  /-- EC8a: the chaining value after `set_iv`. -/
  setIv_cv : ∀ es v, (e.setIv es v).cv = v
  /-- R173: the output is as long as the input. -/
  length : ∀ es d x, x.length % 16 = 0 → (e.transformBytes es d x).2.length = x.length
  /-- EC8a: TRANSFORM keeps the key. -/
  transform_key : ∀ es d x, x.length % 16 = 0 → (e.transformBytes es d x).1.key = es.key
  /-- EC4 (R176). -/
  zero : ∀ es d, e.transformBytes es d [] = (es, [])
  /-- EC5 (R177). -/
  cut : ∀ es d x1 x2, x1.length % 16 = 0 → x2.length % 16 = 0 →
    e.transformBytes es d (x1 ++ x2) =
      ((e.transformBytes (e.transformBytes es d x1).1 d x2).1,
        (e.transformBytes es d x1).2 ++ (e.transformBytes (e.transformBytes es d x1).1 d x2).2)
  /-- EC6 (R178). -/
  undo : ∀ es es' x, x.length % 16 = 0 → es'.key = es.key → es'.cv = es.cv →
    (e.transformBytes es' .dec (e.transformBytes es .enc x).2).2 = x ∧
    (e.transformBytes es' .dec (e.transformBytes es .enc x).2).1.cv = (e.transformBytes es .enc x).1.cv
  /-- EC8a: results depend on the key and the chaining value only. -/
  same : ∀ es es' d x, x.length % 16 = 0 → es'.key = es.key → es'.cv = es.cv →
    (e.transformBytes es' d x).2 = (e.transformBytes es d x).2 ∧
    (e.transformBytes es' d x).1.cv = (e.transformBytes es d x).1.cv

/-- The least engine that meets the contract: it leaves every byte and its state as they are. It shows that the contract
can be met; no machine uses it. -/
def copyEngine : Engine where
  setKey es k := { es with key := k }
  setIv es v := { es with cv := v }
  transformBytes es _ x := (es, x)

theorem copyEngine_contract : EngineContract copyEngine where
  setKey_key _ _ _ := rfl
  setIv_key _ _ := rfl
  setIv_cv _ _ := rfl
  length _ _ _ _ := rfl
  transform_key _ _ _ _ := rfl
  zero _ _ := rfl
  cut _ _ _ _ _ _ := rfl
  undo _ _ _ _ _ h := ⟨rfl, h⟩
  same _ _ _ _ _ _ h := ⟨rfl, h⟩

/-! ## The parameters (R8) -/

/-- The implementation parameters of R8 that a model takes as an argument, with the constraints on CAP and BASE. The
constraint on the engine is `EngineContract`.
NMAX is fixed by the encoding; W_CUR only bounds POS and LEN, which no rule overflows (D32). -/
structure Params where
  /-- CAP, the capacity of the data region in bytes. -/
  cap : Nat
  /-- BASE, the workspace address of data-region byte 0. -/
  base : Nat
  /-- ZEROIZE (R60). -/
  zeroize : Bool
  /-- Engine (R173). -/
  engine : Engine
  cap_mod : cap % 16 = 0
  cap_ge : 16 ≤ cap
  top_le : base + cap ≤ 2 ^ 32

/-- CAP as a number of blocks, less one: any multiple of 16 from 16 to 2^32 (R8, D1). -/
opaque Config.capBlocksLessOne : Fin (268435455 + 1)

/-- CAP (R8, D1). DESIGN CHOICE: no value is chosen, log entry 1. Safe. -/
def Config.cap : Nat := 16 * (Config.capBlocksLessOne.val + 1)

/-- BASE (R8, D2), any value with `BASE + CAP <= 2^32`. DESIGN CHOICE: no value is chosen, log entry 1. Safe. -/
opaque Config.base : Fin (4294967296 - Config.cap + 1)

/-- ZEROIZE (R8, R60, D24). DESIGN CHOICE: no value is chosen, log entry 19. Safe. -/
opaque Config.zeroize : Bool

/-- Some engine that meets the contract, if there is one at all. -/
opaque Config.someEngine [Inhabited { e : Engine // EngineContract e }] : { e : Engine // EngineContract e }

/-- The engine of the machine at hand (R8, R173, D3): any that meets the contract. DESIGN CHOICE: none is chosen, log
entry 2. Safe. -/
def Config.engine : { e : Engine // EngineContract e } :=
  @Config.someEngine ⟨⟨copyEngine, copyEngine_contract⟩⟩

/-- The parameters of the machine at hand. -/
def Config.params : Params where
  cap := Config.cap
  base := Config.base.val
  zeroize := Config.zeroize
  engine := Config.engine.val
  cap_mod := by unfold Config.cap; omega
  cap_ge := by unfold Config.cap; omega
  top_le := by
    have h1 := Config.base.isLt
    have h2 := Config.capBlocksLessOne.isLt
    unfold Config.cap at h1
    unfold Config.cap
    omega

/-- The engine of the machine at hand meets the contract: all that is known of it. -/
theorem Config.engine_contract : EngineContract Config.params.engine := Config.engine.property

/-! Free values: what a register holds where a rule says it is unspecified (R113, R199, R220). Each is a function of a
counter that the step advances, so that two draws are unrelated. Safe. -/

/-- DIR when unspecified (log entry 7). -/
opaque Config.freeDir : Nat → Dir
/-- PAD when unspecified (log entry 7). -/
opaque Config.freePad : Nat → Bool
/-- KLEN when unspecified (log entry 7). -/
opaque Config.freeKlen : Nat → BitVec 6
/-- KEY when unspecified; cut or filled to 32 bytes where it is stored (log entry 7). -/
opaque Config.freeKey : Nat → Bytes
/-- The workspace byte at an address after a reset taken while running (log entry 20). -/
opaque Config.freeWorkspaceByte : Nat → Nat → Byte
/-- The engine's key after a reset taken while running (log entry 20). -/
opaque Config.freeEngineKey : Nat → Bytes
/-- The engine's chaining value after a reset taken while running (log entry 20); cut or filled to 16 bytes where it is
stored. -/
opaque Config.freeChainingValue : Nat → Bytes
/-- What else the engine holds after a reset taken while running (log entry 20). -/
opaque Config.freeEngineWork : Nat → Bytes

end Sys2Proof
end

