-- ==== Sys2Proof/Machine/State.lean ====
section
/-! DEFINITION. The state of one CSB instance (10_state.md R20, 20_memory.md R50, 30_encoding.md R92,
70_reset_and_hazards.md R220), the reasons a step can stop, and the state after reset (R37). -/

namespace Sys2Proof.Machine

/-- PHASE (R28): 0 = UNCONFIGURED, 1 = CONFIGURED. -/
inductive Phase where
  | unconfigured
  | configured
  deriving DecidableEq, Repr

/-- What the block sends to the host: a response word on the response channel (R50(d), R85) or an output byte on the
data-out channel (R50(c)). -/
inductive HostItem where
  | response (w : Word)
  | output (b : Byte)
  deriving DecidableEq, Repr

/-- The workspace's data region as (address, byte) pairs; the form is `Memory.wf`. -/
abbrev Memory := List Host.Cell

/-- What an address that is not listed reads as. DESIGN CHOICE, log entry 6. Unsafe. -/
abbrev unlistedByte : Byte := 0

/-- The canonical form: addresses strictly rising, no entry equal to what an unlisted address reads as. -/
abbrev Memory.wf (m : Memory) : Prop :=
  m.Pairwise (fun c c' => c.1 < c'.1) ∧ ∀ c ∈ m, c.2 ≠ unlistedByte

/-- The state. -/
structure State where
  /-- PHASE (R28). -/
  phase : Phase
  /-- DIR (R24). -/
  dir : Dir
  /-- PAD (R25). -/
  pad : Bool
  /-- MODE (R26). -/
  mode : BitVec 2
  /-- KLEN (R27). -/
  klen : BitVec 6
  /-- KEY (R27). -/
  key : BytesN 32
  /-- POS (R21), a data-region offset. -/
  pos : Nat
  /-- LEN (R22), the number of staged bytes. -/
  len : Nat
  /-- WS, the data region (R32, R51). -/
  ws : Memory
  /-- ES (R33, R173), with the engine region of WS folded in (log entry 4). -/
  es : EngineState
  /-- The command channel: words not yet taken, the next one first (R50(d)). -/
  cmdIn : List Word
  /-- The data-in channel: payload bytes not yet consumed, the next one first (R50(b)). -/
  dataIn : Bytes
  /-- The response and data-out channels: all that was sent on the two, oldest first, in the one order in which it was
  sent (R50(c), R50(d), R85). -/
  hostOut : List HostItem
  /-- The engine request port: words of a request that stands there and has not been served (R92). -/
  reqIn : List Word
  /-- The engine request port: the requests served since reset, oldest first (R92, R174 P1, P4). -/
  issued : List Instr
  /-- The reply words the engine has given, oldest first (R92). -/
  replyOut : List Word
  /-- The reset input (R220): asserted or not. -/
  resetIn : Bool
  /-- The model's own: how many times free values were drawn (log entry 7). -/
  fresh : Nat
  deriving DecidableEq, Repr

/-- Why the machine stops with a fault. -/
inductive Fault where
  /-- An access outside the workspace, at or above `BASE + CAP` (R13, R51): raised by `storeBytes` and
  `serveTransform`. The CSB's own accesses never do this from a state that meets R23. Safe: the model stops. -/
  | noSuchAddress
  /-- A PROCESS loop that can make no progress: raised by `processLoop` after n + 1 passes. R132 shows that no state
  that meets R23 gets there. Safe: a stuck state. -/
  | loopStuck
  deriving DecidableEq, Repr

/-- Why an instruction is given no meaning. -/
inductive Refusal where
  /-- An instruction that exec rejects by name; the model has none left. Safe. -/
  | notModelled (mnemonic : String)
  /-- NEW or PROCESS executed with fewer payload bytes on the data-in channel than its word announces (R225, U9):
  raised by `execNew` and `execProcess`; `fetch` waits instead, so no step raises it. Safe. -/
  | payloadShort
  /-- A TRANSFORM request before SET_KEY and SET_IV have been issued, in that order, since reset (R174 P1, U11): raised
  by `transformAt`. Safe. -/
  | engineNotReady
  /-- A TRANSFORM request whose tag is not that of an earlier one since the last SET_KEY (R174 P4, U11): raised by
  `transformAt`. Safe. -/
  | engineDirection
  /-- A TRANSFORM run that does not start at BASE plus a multiple of 16 (R174 P3, U11): raised by `transformAt`.
  Safe. -/
  | engineOffset
  /-- A TRANSFORM length that is no multiple of 16, outside the engine's preconditions (R174 P2, U11): raised by
  `serveTransform`. Safe. -/
  | engineLength
  /-- A TRANSFORM run that reaches into `WS[0 .. BASE)`, the engine's own region (R51, R174 P3, U4, U11): raised by
  `serveTransform`. Safe. -/
  | engineRegion
  /-- SET_KEY with a key that has not 4, 6 or 8 words (R170, U11): raised by `execSetKey`; the decoder lets no such
  request pass. Safe. -/
  | engineKeyLength
  /-- Words on the engine port that spell no request (R92, U8): raised by `step`. Safe. -/
  | engineHeader
  deriving DecidableEq, Repr

/-- The state right after reset (R37, R220). PHASE, POS, LEN and the channels as R37 says. The spec leaves DIR, PAD,
MODE, KLEN, KEY, WS and ES unspecified: DESIGN CHOICE values, log entries 5 and 6. Unsafe. -/
def State.reset : State where
  phase := .unconfigured
  dir := .enc
  pad := false
  mode := 0
  klen := 0
  key := ⟨List.replicate 32 0, rfl⟩
  pos := 0
  len := 0
  ws := []
  es := { key := List.replicate 16 0, cv := ⟨List.replicate 16 0, rfl⟩, work := [] }
  cmdIn := []
  dataIn := []
  hostOut := []
  reqIn := []
  issued := []
  replyOut := []
  resetIn := false
  fresh := 0

end Sys2Proof.Machine
end

