-- ==== Sys2Proof/Machine/Ops.lean ====
section
/-! DEFINITION. The named operations over the workspace, the cursor, the channels and the configuration registers
(00_scope.md R13, 20_memory.md R57, R60), and how a command ends: with output, with an error, as ILLEGAL
(R14, 60_exceptions.md R199 to R202). -/

namespace Sys2Proof.Machine

/-- The outcome of an operation on the state. -/
abbrev Result := Host.Outcome State Fault Refusal

/-- Go on with the next state, or stop as the first operation stopped. -/
def andThen (o : Result) (f : State → Result) : Result :=
  match o with
  | .next s => f s
  | .fault r => .fault r
  | .refused r => .refused r

/-! ## Byte sequences -/

/-- `l` cut or filled with 0x00 to `n` bytes; the identity on `n` bytes. -/
def fit (n : Nat) (l : Bytes) : BytesN n := ⟨(l ++ List.replicate n 0).take n, by simp⟩

/-- `x & ~15` (R12). -/
def down16 (x : Nat) : Nat := x - x % 16

/-! ## The workspace (R13, R51, R57) -/

/-- One byte of the memory. -/
def readByte : Memory → Nat → Byte
  | [], _ => unlistedByte
  | (b, v) :: t, a => if b = a then v else readByte t a

/-- Write one byte, keeping the canonical form. -/
def writeByte : Memory → Nat → Byte → Memory
  | [], a, v => if v = unlistedByte then [] else [(a, v)]
  | (b, u) :: t, a, v =>
    if a < b then (if v = unlistedByte then (b, u) :: t else (a, v) :: (b, u) :: t)
    else if a = b then (if v = unlistedByte then t else (a, v) :: t)
    else (b, u) :: writeByte t a v

/-- `MemRead(a, n)` (R13): ascending addresses into ascending indices (R52). -/
def readBytes (m : Memory) (a n : Nat) : Bytes := (List.range n).map fun i => readByte m (a + i)

/-- The writes of `MemWrite(a, |s|, s)` (R13), in ascending order (R52). -/
def writeBytes (m : Memory) (a : Nat) : Bytes → Memory
  | [] => m
  | b :: t => writeBytes (writeByte m a b) (a + 1) t

/-- Overwrite `n` bytes from address `a` with 0x00 (R60): unlisted bytes read so. -/
def zeroBytes (m : Memory) (a n : Nat) : Memory := m.filter fun c => !(a ≤ c.1 && c.1 < a + n)

/-- `D(x) = BASE + x` (R13). -/
def dataAddr (P : Params) (x : Nat) : Nat := P.base + x

/-- `MemWrite` by the CSB (R13): an address outside the workspace does not exist; no byte touches nothing. -/
def storeBytes (P : Params) (a : Nat) (bs : Bytes) (s : State) : Result :=
  if bs ≠ [] ∧ P.base + P.cap < a + bs.length then .fault .noSuchAddress
  else .next { s with ws := writeBytes s.ws a bs }

/-! ## The cursor (R21, R22, R60) -/

/-- `LEN <- n`. -/
def setLen (n : Nat) (s : State) : State := { s with len := n }

/-- `POS <- 0; LEN <- 0` as PROCESS does when the buffer is drained (R130): no zeroization. -/
def wrapCursor (s : State) : State := { s with pos := 0, len := 0 }

/-- The cursor after the engine consumed `c` staged bytes (R130, R150). -/
def consume (c : Nat) (s : State) : State :=
  if c < s.len then { s with pos := s.pos + c, len := s.len - c } else wrapCursor s

/-- `POS <- 0; LEN <- 0` at the end of a FINISH, in every NEW and at reset, with the zeroization of R60. -/
def emptyCursor (P : Params) (s : State) : State :=
  { s with pos := 0, len := 0, ws := if P.zeroize then zeroBytes s.ws P.base P.cap else s.ws }

/-! ## Responses (R85, R86, R190) -/

/-- The status of a command (R86). -/
inductive Status where
  | ok
  | invalidKeySize
  | invalidIVSize
  | unalignedInput
  | badPadding
  /-- Never produced (R196). -/
  | invalidInputType
  | illegalCommand
  deriving DecidableEq, Repr

/-- The status codes (R86). -/
def statusCode : Status → BitVec 4
  | .ok => 0
  | .invalidKeySize => 1
  | .invalidIVSize => 2
  | .unalignedInput => 3
  | .badPadding => 4
  | .invalidInputType => 5
  | .illegalCommand => 7

/-- The response word: STATUS in bits 31:28, OLEN in bits 27:0 (R85). -/
def responseWord (st : Status) (olen : Nat) : Word := statusCode st ++ BitVec.ofNat 28 olen

/-- What a command is answered with: the response word first, then its output bytes (R85, D7). -/
def reply (st : Status) (out : Bytes) : List HostItem := .response (responseWord st out.length) :: out.map .output

/-- The one way a command ends: its reply goes out (R14, R85). Nothing is saved and control goes nowhere (R202). -/
def respond (st : Status) (out : Bytes) (s : State) : State := { s with hostOut := s.hostOut ++ reply st out }

/-- `return out`: the command ends with OK and its output bytes (R13, R14). -/
def respondOk (out : Bytes) (s : State) : State := respond .ok out s

/-- The command ends without output, `OLEN = 0` (R14, R190). -/
def respondError (st : Status) (s : State) : State := respond st [] s

/-- The response channel alone (R50(d)): the words among what was sent, in order. -/
def responseWords : List HostItem → List Word
  | [] => []
  | .response w :: t => w :: responseWords t
  | .output _ :: t => responseWords t

/-- The data-out channel alone (R50(c)): the bytes among what was sent, in order. -/
def outputBytes : List HostItem → Bytes
  | [] => []
  | .response _ :: t => outputBytes t
  | .output b :: t => b :: outputBytes t

/-- ILLEGAL: no other state changes (R201). -/
def respondIllegal (s : State) : State := respondError .illegalCommand s

/-- KEY, KLEN, DIR and PAD become unspecified (R199, R113): free values (log entry 7). MODE stays (log entry 8). -/
def forgetConfig (s : State) : State :=
  { s with
    dir := Config.freeDir s.fresh
    pad := Config.freePad s.fresh
    klen := Config.freeKlen s.fresh
    key := fit 32 (Config.freeKey s.fresh)
    fresh := s.fresh + 1 }

/-- `raise` in NEW (R110, R199): PHASE, POS and LEN are 0, the configuration is unspecified, ES is unchanged. -/
def raiseNew (P : Params) (st : Status) (s : State) : State :=
  respondError st (forgetConfig (emptyCursor P { s with phase := .unconfigured }))

/-- `raise` in FINISH (R140, R160, R200): the cursor is empty; PHASE, DIR, PAD, KEY and KLEN are unchanged. -/
def raiseFinish (P : Params) (st : Status) (s : State) : State := respondError st (emptyCursor P s)

/-! ## Reset (R37, R220) -/

/-- The bytes a reset leaves in the data region when ZEROIZE is false: unspecified, so free (log entry 20). -/
def freeWorkspace (P : Params) (k : Nat) : Memory :=
  writeBytes [] P.base ((List.range P.cap).map fun i => Config.freeWorkspaceByte k (P.base + i))

/-- Taking the reset input (R220): the state of the table in R37. PHASE, POS and LEN are 0 and all channels empty;
what R37 calls unspecified is free (log entry 20); MODE holds 0 (R26). The model lowers the input again. -/
def takeReset (P : Params) (s : State) : State :=
  { State.reset with
    dir := Config.freeDir s.fresh
    pad := Config.freePad s.fresh
    klen := Config.freeKlen s.fresh
    key := fit 32 (Config.freeKey s.fresh)
    ws := if P.zeroize then [] else freeWorkspace P s.fresh
    es :=
      { key := Config.freeEngineKey s.fresh
        cv := fit 16 (Config.freeChainingValue s.fresh)
        work := Config.freeEngineWork s.fresh }
    fresh := s.fresh + 1 }

end Sys2Proof.Machine
end

