-- ==== Sys2Proof/Machine/Operands.lean ====
section
/-! DEFINITION. The operand forms: payload bytes of a host command (30_encoding.md R81, R87, R90), the argument words
of engine requests (R92, 20_memory.md R53), and the key register (10_state.md R27). -/

namespace Sys2Proof.Machine

/-- The next `n` bytes of the data-in channel and the state with them consumed, each byte once (R50(b), R90). -/
def takePayload (n : Nat) (s : State) : Option (Bytes × State) :=
  if s.dataIn.length < n then none else some (s.dataIn.take n, { s with dataIn := s.dataIn.drop n })

/-- The key of NEW: the first KLEN payload bytes (R87). -/
def keyOperand (klen : BitVec 8) (payload : Bytes) : Bytes := payload.take klen.toNat

/-- The IV of NEW: absent when `IVP = 0`, else the IVLEN payload bytes after the key (R87). -/
def ivOperand (ivp : Bool) (ivlen klen : BitVec 8) (payload : Bytes) : Option Bytes :=
  if ivp then some ((payload.drop klen.toNat).take ivlen.toNat) else none

/-- The default IV: sixteen 0x00 bytes (R7, R110). -/
def defaultIv : Bytes := List.replicate 16 0

/-- `KEY[0..KLEN) <- k` (R27, R110); the bytes at and above KLEN keep what they held (log entry 29). -/
def writeKeyRegister (old : BytesN 32) (k : Bytes) : BytesN 32 := fit 32 (k ++ old.1.drop k.length)

/-- Word `i` of a byte sequence, most significant byte first (R53(b)). -/
def wordAt (bs : Bytes) (i : Nat) : Word :=
  be32 (bs.getD (4 * i) 0) (bs.getD (4 * i + 1) 0) (bs.getD (4 * i + 2) 0) (bs.getD (4 * i + 3) 0)

end Sys2Proof.Machine
end

