-- ==== Sys2Proof/Machine/Engine.lean ====
section
/-! DEFINITION. The cipher engine's port (45_engine_port.md R170 to R180): the three requests as shared operations over
the engine of the parameters (R173), its preconditions (R174), the meanings of SET_KEY, SET_IV and TRANSFORM; and the
engine in the CBC structure (R181) with the XOR test double (R183). -/

namespace Sys2Proof.Machine

/-! ## The three requests, served (R170 to R172) -/

/-- SET_KEY (R170): `ES <- Engine.set_key(ES, k)`, `k` the bytes of the words. What the chaining value is afterwards is
the engine's (log entry 9). -/
def serveSetKey (P : Params) (kw : List Word) (s : State) : State :=
  { s with es := P.engine.setKey s.es (unpackWords kw), issued := s.issued ++ [.setKey kw] }

/-- SET_IV (R171): `ES <- Engine.set_iv(ES, iv)`, `iv` the bytes of the words. -/
def serveSetIv (P : Params) (w0 w1 w2 w3 : Word) (s : State) : State :=
  { s with
    es := P.engine.setIv s.es (fit 16 (unpackWords [w0, w1, w2, w3]))
    issued := s.issued ++ [.setIv w0 w1 w2 w3] }

/-- `Engine.transform(ES, WS, d, off, n)` (R172, R173): the run is replaced in place, ES advances, the reply is `n`
(R175 EC3). A run of no bytes changes nothing but the port's traffic (R176). There is no meaning for a length that is no
multiple of 16 (R174 P2) or a run in the engine's own region (P3); an address outside the workspace does not exist. The
CSB's own requests come here directly: it guarantees P1 to P4 (R174). -/
def serveTransform (P : Params) (d : Dir) (off n : Nat) (s : State) : Result :=
  if n % 16 ≠ 0 then .refused .engineLength
  else if n ≠ 0 ∧ off < P.base then .refused .engineRegion
  else if n ≠ 0 ∧ P.base + P.cap < off + n then .fault .noSuchAddress
  else
    let r := P.engine.transformBytes s.es d (readBytes s.ws off n)
    .next { s with
      es := r.1
      ws := writeBytes s.ws off r.2
      issued := s.issued ++ [.transform d (BitVec.ofNat 32 off) (BitVec.ofNat 32 n)]
      replyOut := s.replyOut ++ [BitVec.ofNat 32 n] }

/-! ## Preconditions of a TRANSFORM request, by what was issued since reset (R174) -/

/-- Whether a request is SET_KEY. -/
def isSetKey : Instr → Bool
  | .setKey _ => true
  | .new _ _ _ _ _ | .process _ | .finish | .setIv _ _ _ _ | .transform _ _ _ => false

/-- Whether a request is SET_IV. -/
def isSetIv : Instr → Bool
  | .setIv _ _ _ _ => true
  | .new _ _ _ _ _ | .process _ | .finish | .setKey _ | .transform _ _ _ => false

/-- Whether a request is no TRANSFORM of another direction than `d`. -/
def tagIs (d : Dir) : Instr → Bool
  | .transform d' _ _ => d' == d
  | .new _ _ _ _ _ | .process _ | .finish | .setKey _ | .setIv _ _ _ _ => true

/-- P1: SET_KEY and SET_IV have been issued, in that order. -/
def engineReady (issued : List Instr) : Bool := (issued.dropWhile fun q => !isSetKey q).any isSetIv

/-- P4: every TRANSFORM since the last SET_KEY has the tag `d`. -/
def directionKept (d : Dir) (issued : List Instr) : Bool :=
  (issued.reverse.takeWhile fun q => !isSetKey q).all (tagIs d)

/-! ## The meanings of the three engine requests -/

/-- SET_KEY (R170) with given parameters. The CSB never sends a key of another length than 4, 6 or 8 words. -/
def setKeyAt (P : Params) (kw : List Word) (s : State) : Result :=
  if kw.length = 4 ∨ kw.length = 6 ∨ kw.length = 8 then .next (serveSetKey P kw s)
  else .refused .engineKeyLength

/-- SET_KEY (R170). -/
def execSetKey (kw : List Word) (s : State) : Result := setKeyAt Config.params kw s

/-- SET_IV (R171) with given parameters. -/
def setIvAt (P : Params) (w0 w1 w2 w3 : Word) (s : State) : Result := .next (serveSetIv P w0 w1 w2 w3 s)

/-- SET_IV (R171). -/
def execSetIv (w0 w1 w2 w3 : Word) (s : State) : Result := setIvAt Config.params w0 w1 w2 w3 s

/-- TRANSFORM (R172) with given parameters, as a request that stands on the port: outside the preconditions the engine
has no meaning for it (R174, U11). A run of no bytes has no place, so P3 does not restrict it (R13, R176). -/
def transformAt (P : Params) (d : Dir) (off nbytes : Word) (s : State) : Result :=
  if engineReady s.issued = false then .refused .engineNotReady
  else if directionKept d s.issued = false then .refused .engineDirection
  else if nbytes ≠ 0 ∧ P.base ≤ off.toNat ∧ (off.toNat - P.base) % 16 ≠ 0 then .refused .engineOffset
  else serveTransform P d off.toNat nbytes.toNat s

/-- TRANSFORM (R172). -/
def execTransform (d : Dir) (off nbytes : Word) (s : State) : Result :=
  transformAt Config.params d off nbytes s

/-! ## Engines in the CBC structure (R181) -/

/-- Bytewise exclusive-or of two blocks (R12, R181). -/
def xorBlock (x y : Block) : Block := fit 16 (List.zipWith (· ^^^ ·) x.1 y.1)

/-- `m` blocks encrypted from the chaining value `cv`: `y_i = E_k(x_i xor y_{i-1})`, `y_0 = cv` (R181). -/
def cbcEncrypt (E : Equiv.Perm Block) : Nat → Block → Bytes → Block × Bytes
  | 0, cv, _ => (cv, [])
  | m + 1, cv, x =>
    let y := E (xorBlock (fit 16 (x.take 16)) cv)
    let r := cbcEncrypt E m y (x.drop 16)
    (r.1, y.1 ++ r.2)

/-- `m` blocks decrypted from the chaining value `cv`: `y_i = E_k^-1(x_i) xor x_{i-1}`, `x_0 = cv` (R181). -/
def cbcDecrypt (E : Equiv.Perm Block) : Nat → Block → Bytes → Block × Bytes
  | 0, cv, _ => (cv, [])
  | m + 1, cv, x =>
    let xb := fit 16 (x.take 16)
    let r := cbcDecrypt E m xb (x.drop 16)
    (r.1, (xorBlock (E.symm xb) cv).1 ++ r.2)

/-- A run of whole blocks in one direction (R181). -/
def cbc (E : Equiv.Perm Block) (d : Dir) (m : Nat) (cv : Block) (x : Bytes) : Block × Bytes :=
  match d with
  | .enc => cbcEncrypt E m cv x
  | .dec => cbcDecrypt E m cv x

/-- The engine in the CBC structure over the permutation `E_k` for every key `k` (R181, from general knowledge, G1). Its
state is the key and the chaining value. -/
def cbcEngine (E : Bytes → Equiv.Perm Block) : Engine where
  setKey es k := { es with key := k }
  setIv es v := { es with cv := v }
  transformBytes es d x :=
    ({ es with cv := (cbc (E es.key) d (x.length / 16) es.cv x).1 }, (cbc (E es.key) d (x.length / 16) es.cv x).2)

/-! ## The XOR test double (R183) -/

/-- `E_k(b) = b xor k[0..16)` (R183), its own inverse. -/
def xorCipher (k : Bytes) : Equiv.Perm Block where
  toFun b := xorBlock b (fit 16 (k.take 16))
  invFun b := xorBlock b (fit 16 (k.take 16))
  left_inv b := by
    obtain ⟨b, hb⟩ := b
    apply Subtype.ext
    apply List.ext_getElem <;> simp [xorBlock, fit, hb]
  right_inv b := by
    obtain ⟨b, hb⟩ := b
    apply Subtype.ext
    apply List.ext_getElem <;> simp [xorBlock, fit, hb]

end Sys2Proof.Machine
end

