-- ==== Sys2Proof/Machine/Construct.lean ====
section
/-! DEFINITION. NEW: construction of the session (40_construction.md R110 to R113). -/

namespace Sys2Proof.Machine

/-- The legal key lengths in bytes (R7, R110). -/
def legalKeyLength (n : Nat) : Bool := n == 16 || n == 24 || n == 32

/-- An IV that NEW accepts: absent, or 16 bytes (R110). -/
def legalIv : Option Bytes → Bool
  | none => true
  | some v => v.length == 16

/-- SET_KEY with the key's words, most significant byte first (R112, R170). -/
def requestSetKey (P : Params) (key : Bytes) (s : State) : State := serveSetKey P (packWords key) s

/-- SET_IV with the IV's four words, most significant byte first (R112, R171). -/
def requestSetIv (P : Params) (iv : Bytes) (s : State) : State :=
  serveSetIv P (wordAt iv 0) (wordAt iv 1) (wordAt iv 2) (wordAt iv 3) s

/-- The register writes of a successful NEW before the engine requests (R110). -/
def installConfig (P : Params) (dir : Dir) (pad : Bool) (key : Bytes) (s : State) : State :=
  emptyCursor P { s with
    klen := BitVec.ofNat 6 key.length
    key := writeKeyRegister s.key key
    dir := dir
    pad := pad
    mode := 0 }

/-- `PHASE <- 1` (R28, R110). -/
def enterConfigured (s : State) : State := { s with phase := .configured }

/-- NEW on its abstract operands (R110): the key length is checked first (R111), then the IV length; SET_KEY comes
before SET_IV (R112). -/
def construct (P : Params) (dir : Dir) (pad : Bool) (key : Bytes) (iv : Option Bytes) (s : State) : State :=
  if legalKeyLength key.length = false then raiseNew P .invalidKeySize s
  else if legalIv iv = false then raiseNew P .invalidIVSize s
  else
    respondOk [] (enterConfigured
      (requestSetIv P (iv.getD defaultIv) (requestSetKey P key (installConfig P dir pad key s))))

/-- NEW with given parameters: the payload is consumed whatever the outcome (R90). -/
def newAt (P : Params) (dir : Dir) (pad ivp : Bool) (ivlen klen : BitVec 8) (s : State) : Result :=
  match takePayload (klen.toNat + ivlen.toNat) s with
  | none => .refused .payloadShort
  | some (payload, t) =>
    .next (construct P dir pad (keyOperand klen payload) (ivOperand ivp ivlen klen payload) t)

/-- NEW (R110). -/
def execNew (dir : Dir) (pad ivp : Bool) (ivlen klen : BitVec 8) (s : State) : Result :=
  newAt Config.params dir pad ivp ivlen klen s

end Sys2Proof.Machine
end

