-- ==== Sys2Proof/Machine/Flags.lean ====
section
/-! DEFINITION. The block has no persistent flag (10_state.md R31). Here are the two transient ones of FINISH in a
decrypt session, `bad` and `acc`, with the pad checker that sets and reads them (44_decrypt_finish.md R161), and the
pad generator (42_encrypt_finish.md R142). -/

namespace Sys2Proof.Machine

/-- The pad length for `l` staged bytes: `16 - (l mod 16)`, always 1..16 (R140, R142). -/
def padLength (l : Nat) : Nat := 16 - l % 16

/-- `rep(p, p)`: `p` bytes each holding `p` (R140, R142). -/
def padBytes (p : Nat) : Bytes := List.replicate p (BitVec.ofNat 8 p)

/-- The pad length byte: the last transformed byte (R161). -/
def padByte (b : Bytes) : Byte := b.getD (b.length - 1) 0

/-- `bad`: the pad length is out of range (R161). The third case is unreachable (C7) and kept as R161 has it. -/
def padBad (b : Bytes) : Bool :=
  (padByte b).toNat < 1 || 16 < (padByte b).toNat || b.length < (padByte b).toNat

/-- Lane `i`: the difference between the `i`-th byte from the end and the pad length (R161). -/
def padLane (b : Bytes) (i : Nat) : Byte := b.getD (b.length - i) 0 ^^^ padByte b

/-- `acc`: the OR of the lanes at or below the pad length; all sixteen lanes are evaluated, always (R161, R162). -/
def padAcc (b : Bytes) : Byte :=
  (List.range 16).foldl
    (fun acc k => if k + 1 ≤ (padByte b).toNat then acc ||| padLane b (k + 1) else acc) 0

/-- `ok` of `PadCheck(b)` (R161). -/
def padOk (b : Bytes) : Bool := !padBad b && padAcc b == 0

end Sys2Proof.Machine
end

