-- ==== Sys2Proof/Machine/Stream.lean ====
section
/-! DEFINITION. The loop of PROCESS, shared by both directions (41_encrypt_process.md R130, 43_decrypt_process.md
R150). -/

namespace Sys2Proof.Machine

/-- The number of chunk bytes one pass stages: `min(dlen, CAP - (POS + LEN))` (R57(a), R130). -/
def stageCount (P : Params) (dlen : Nat) (s : State) : Nat := min dlen (P.cap - (s.pos + s.len))

/-- The stage of one pass: the next `w` chunk bytes go right after the staged bytes (R57(a), R130). -/
def stage (P : Params) (w : Nat) (chunk : Bytes) (s : State) : Result :=
  andThen (storeBytes P (dataAddr P (s.pos + s.len)) (chunk.take w) s) fun t => .next (setLen (t.len + w) t)

/-- The length of a pass's TRANSFORM: every complete block, less the reserve `plen` in the last pass, the one after
which no chunk byte remains (R130, R150, R151). In an encrypt session and without padding `plen` is 0. -/
def requestLength (plen : Nat) (rest : Bytes) (s : State) : Nat :=
  if rest = [] then down16 (s.len - plen) else down16 s.len

/-- One pass: stage, transform, advance the cursor; the output of the pass goes to `k` with the state after it.
The engine consumes all it was asked for (R175 EC3). -/
def pass (P : Params) (d : Dir) (plen : Nat) (chunk : Bytes) (s : State) (k : Bytes → State → Result) : Result :=
  let w := stageCount P chunk.length s
  andThen (stage P w chunk s) fun t =>
    let c := requestLength plen (chunk.drop w) t
    andThen (serveTransform P d (dataAddr P t.pos) c t) fun u =>
      k (readBytes u.ws (dataAddr P t.pos) c) (consume c u)

/-- `while dlen > 0` (R130, R150), at most `fuel` passes; then the command returns what it gathered. R132: n + 1
passes are enough from every state that meets R23; a state in which the loop can make no progress is stuck. -/
def processLoop (P : Params) (d : Dir) (plen : Nat) : Nat → Bytes → Bytes → State → Result
  | _, [], out, s => .next (respondOk out s)
  | 0, _ :: _, _, _ => .fault .loopStuck
  | fuel + 1, b :: chunk, out, s =>
    pass P d plen (b :: chunk) s fun o t =>
      processLoop P d plen fuel ((b :: chunk).drop (stageCount P (b :: chunk).length s)) (out ++ o) t

end Sys2Proof.Machine
end

