-- ==== Sys2Proof/Machine/Decrypt.lean ====
section
/-! DEFINITION. PROCESS and FINISH in a decrypt session (43_decrypt_process.md R150, R151, 44_decrypt_finish.md
R160). -/

namespace Sys2Proof.Machine

/-- The reserve `plen` for the running total `total`: 0 without padding; else the bytes beyond the last whole block,
or one whole block when there are none (R151). -/
def reserve (pad : Bool) (total : Nat) : Nat :=
  if pad then (if total % 16 ≠ 0 then total % 16 else 16) else 0

/-- PROCESS.D (R150). -/
def processDecrypt (P : Params) (chunk : Bytes) (s : State) : Result :=
  processLoop P .dec (reserve s.pad (s.len + chunk.length)) (chunk.length + 1) chunk [] s

/-- FINISH.D after the transform (R160): with padding check and strip it, else output everything; `n` bytes were
staged at `off`. -/
def releaseDecrypt (P : Params) (off n : Nat) (s : State) : State :=
  let b := readBytes s.ws off n
  if s.pad then
    if padOk b then respondOk (readBytes s.ws off (n - (padByte b).toNat)) (emptyCursor P s)
    else raiseFinish P .badPadding s
  else respondOk b (emptyCursor P s)

/-- FINISH.D (R160): the empty case first, then alignment, then the transform and the padding (R198). -/
def finishDecrypt (P : Params) (s : State) : Result :=
  if s.len = 0 then .next (respondOk [] (emptyCursor P s))
  else if s.len % 16 ≠ 0 then .next (raiseFinish P .unalignedInput s)
  else
    andThen (serveTransform P .dec (dataAddr P s.pos) s.len s) fun t =>
      .next (releaseDecrypt P (dataAddr P s.pos) s.len t)

end Sys2Proof.Machine
end

