-- ==== Sys2Proof/Machine/Encrypt.lean ====
section
/-! DEFINITION. PROCESS and FINISH in an encrypt session (41_encrypt_process.md R130, 42_encrypt_finish.md R140). -/

namespace Sys2Proof.Machine

/-- PROCESS.E (R130): nothing is withheld; PAD is not read. -/
def processEncrypt (P : Params) (chunk : Bytes) (s : State) : Result :=
  processLoop P .enc 0 (chunk.length + 1) chunk [] s

/-- The end of FINISH.E (R140): transform what is staged, output it, empty the cursor. -/
def flushEncrypt (P : Params) (s : State) : Result :=
  andThen (serveTransform P .enc (dataAddr P s.pos) s.len s) fun t =>
    .next (respondOk (readBytes t.ws (dataAddr P s.pos) s.len) (emptyCursor P t))

/-- The pad write of FINISH.E (R57(b), R140). -/
def writePad (P : Params) (s : State) : Result :=
  andThen (storeBytes P (dataAddr P (s.pos + s.len)) (padBytes (padLength s.len)) s) fun t =>
    .next (setLen (t.len + padLength s.len) t)

/-- FINISH.E (R140). -/
def finishEncrypt (P : Params) (s : State) : Result :=
  if s.pad then andThen (writePad P s) (flushEncrypt P)
  else if s.len % 16 ≠ 0 then .next (raiseFinish P .unalignedInput s)
  else flushEncrypt P s

end Sys2Proof.Machine
end

