-- ==== Sys2Proof/Machine/Session.lean ====
section
/-! DEFINITION. Dispatch of PROCESS and FINISH over PHASE and DIR (40_construction.md R115 to R117). -/

namespace Sys2Proof.Machine

/-- PROCESS on its chunk (R115, R117): ILLEGAL without a session, else by direction. -/
def processChunk (P : Params) (chunk : Bytes) (s : State) : Result :=
  match s.phase, s.dir with
  | .unconfigured, _ => .next (respondIllegal s)
  | .configured, .enc => processEncrypt P chunk s
  | .configured, .dec => processDecrypt P chunk s

/-- PROCESS with given parameters: the payload is consumed whatever the outcome (R90, R117). -/
def processAt (P : Params) (n : BitVec 24) (s : State) : Result :=
  match takePayload n.toNat s with
  | none => .refused .payloadShort
  | some (chunk, t) => processChunk P chunk t

/-- FINISH with given parameters (R116, R117). -/
def finishAt (P : Params) (s : State) : Result :=
  match s.phase, s.dir with
  | .unconfigured, _ => .next (respondIllegal s)
  | .configured, .enc => finishEncrypt P s
  | .configured, .dec => finishDecrypt P s

/-- PROCESS (R115). -/
def execProcess (n : BitVec 24) (s : State) : Result := processAt Config.params n s

/-- FINISH (R116). -/
def execFinish (s : State) : Result := finishAt Config.params s

end Sys2Proof.Machine
end

