-- ==== Sys2Proof/Machine/Dispatch.lean ====
section
/-! DEFINITION. The meaning of every instruction: one arm per constructor of Instr. -/

namespace Sys2Proof.Machine

def exec (i : Instr) (s : State) : Host.Outcome State Fault Refusal :=
  match i with
  | .new dir pad ivp ivlen klen => Sys2Proof.Machine.execNew dir pad ivp ivlen klen s
  | .process n => Sys2Proof.Machine.execProcess n s
  | .finish => Sys2Proof.Machine.execFinish s
  | .setKey kw => Sys2Proof.Machine.execSetKey kw s
  | .setIv w0 w1 w2 w3 => Sys2Proof.Machine.execSetIv w0 w1 w2 w3 s
  | .transform d off nbytes => Sys2Proof.Machine.execTransform d off nbytes s

end Sys2Proof.Machine
end

