-- ==== Sys2Proof/Machine/Fetch.lean ====
section
/-! DEFINITION. Where the next instruction comes from (10_state.md R29, 20_memory.md R50, R61, R64): the engine port
before the command channel, since a request completes before the CSB goes on (R61(c), R180). -/

namespace Sys2Proof.Machine

/-- What a step does next. -/
inductive Fetched where
  /-- Execute an instruction whose words have been taken. -/
  | run (i : Instr) (s : State)
  /-- No instruction is executed: the next state is already known. -/
  | stay (s : State)
  /-- The words on the engine port spell no request (R92, U8). -/
  | refuse
  deriving DecidableEq, Repr

/-- The next request standing on the engine port (R92); a request whose argument words are not all there waits for
them. -/
def fetchRequest (s : State) : Fetched :=
  match decodeRequest s.reqIn with
  | .ok (i, rest) => .run i { s with reqIn := rest }
  | .error .argumentWordsMissing => .stay s
  | .error _ => .refuse

/-- The next command (R29): nothing on the channel, the block is idle and keeps its state (R207); an illegal word is
consumed and answered (R89); a command whose payload is not all there waits for it (R231). -/
def fetchCommand (s : State) : Fetched :=
  match s.cmdIn with
  | [] => .stay s
  | w :: rest =>
    match decodeCommand w with
    | .error _ => .stay (respondIllegal { s with cmdIn := rest })
    | .ok i => if s.dataIn.length < payloadBytes i then .stay s else .run i { s with cmdIn := rest }

/-- The next thing the machine does: reset before anything else (R220). -/
def fetch (s : State) : Fetched :=
  if s.resetIn then .stay (takeReset Config.params s)
  else if s.reqIn ≠ [] then fetchRequest s
  else fetchCommand s

/-- `s` with the words of one instruction placed where `fetch` takes its next instruction: an engine request alone on
the engine port, a command word at the head of the command channel with its payload filled up with 0x00. -/
def placeWords (s : State) (ws : List Word) : State :=
  match ws with
  | [] => s
  | w :: t =>
    if w.extractLsb' 30 2 = 0 then
      let need := match decodeCommand w with
        | .ok i => payloadBytes i
        | .error _ => 0
      { s with
        resetIn := false
        reqIn := []
        cmdIn := w :: s.cmdIn
        dataIn := s.dataIn ++ List.replicate (need - s.dataIn.length) 0 }
    else { s with resetIn := false, reqIn := w :: t }

end Sys2Proof.Machine
end

