-- ==== Sys2Proof/Machine/Step.lean ====
section
/-! DEFINITION. One step of the machine. -/

namespace Sys2Proof.Machine

/-- One step: take the next instruction and execute it, or idle, wait, answer an illegal word, take the reset. -/
def step (s : State) : Host.Outcome State Fault Refusal :=
  match fetch s with
  | .run i t => exec i t
  | .stay t => .next t
  | .refuse => .refused .engineHeader

/-- `s` with the instruction whose bits are `w` (numbered as the opcode table numbers them) placed where `step`
fetches its next instruction (log entry 23). -/
def State.withFetchWord (s : State) (nbits w : Nat) : State := placeWords s (tableWords nbits w)

end Sys2Proof.Machine
end

