-- ==== Sys2Proof/Safety.lean ====
section
/-! DEFINITION. What counts as a safe state and a safe run, and the terms in which claims are stated: the invariants of
10_state.md R23, the form of the workspace, the staged bytes (00_scope.md R16), the host's view (R34), messages
(R16). -/

namespace Sys2Proof.Machine

/-- The staged bytes (R16): the LEN bytes at data-region offsets `[POS, POS+LEN)`. -/
def stagedBytes (P : Params) (s : State) : Bytes := readBytes s.ws (dataAddr P s.pos) s.len

/-- The bound INV1 puts on LEN (R22, R23). -/
def lenBound (s : State) : Nat := if s.dir = .dec ∧ s.pad = true then 16 else 15

/-- INV1 to INV5 of R23. -/
structure CursorInv (P : Params) (s : State) : Prop where
  /-- INV1. -/
  bound : s.len ≤ lenBound s
  /-- INV2. -/
  fit : s.pos + s.len ≤ P.cap
  /-- INV3. -/
  wrap : s.len = 0 → s.pos = 0
  /-- INV4. -/
  aligned : s.pos % 16 = 0
  /-- INV5. -/
  room : s.pos + 16 ≤ P.cap

/-- The workspace is in canonical form and lists data-region bytes only (R51, R57). -/
structure WorkspaceInv (P : Params) (s : State) : Prop where
  wf : s.ws.wf
  region : ∀ c ∈ s.ws, P.base ≤ c.1 ∧ c.1 < P.base + P.cap

/-- MODE holds 0 (R26), and a session's KLEN is 16, 24 or 32 (R27). -/
structure ConfigInv (s : State) : Prop where
  mode : s.mode = 0
  klen : s.phase = .configured → s.klen = 16 ∨ s.klen = 24 ∨ s.klen = 32

/-- The invariants together. -/
structure Inv (P : Params) (s : State) : Prop where
  cursor : CursorInv P s
  workspace : WorkspaceInv P s
  config : ConfigInv s

/-- No request stands on the engine port between commands (R61(c)); in a session the engine holds the session's key
(R27, R179), and a TRANSFORM of the session's direction meets P1 and P4 (R174). -/
structure EngineInv (s : State) : Prop where
  idle : s.reqIn = []
  key : s.phase = .configured → s.es.key = s.key.1.take s.klen.toNat
  ready : s.phase = .configured → engineReady s.issued = true
  direction : s.phase = .configured → directionKept s.dir s.issued = true

/-- The state less what R9 lets CAP, BASE and ZEROIZE change: POS, the workspace, the engine port's traffic. -/
def hostView (s : State) : State := { s with pos := 0, ws := [], issued := [], replyOut := [] }

/-- Two states of two machines that hold the same session: the same host view and the same staged bytes. -/
def SameSession (P Q : Params) (s t : State) : Prop :=
  hostView s = hostView t ∧ stagedBytes P s = stagedBytes Q t

/-- The bytes a PROCESS of `n` bytes may store to, as data-region offsets: from POS to the end of the staged and new
bytes, and, where these do not fit below CAP, from 0 on after the wrap (R57(a), R57(e), R132). -/
def processTouches (P : Params) (s : State) (n x : Nat) : Prop :=
  x < P.cap ∧ ((s.pos ≤ x ∧ x < s.pos + s.len + n) ∨ x + P.cap < s.pos + s.len + n)

/-- Consecutive PROCESS commands with the given chunks (R94). -/
def feed (P : Params) : List Bytes → State → Result
  | [], s => .next s
  | c :: cs, s => andThen (processChunk P c s) (feed P cs)

/-- A whole message: its PROCESS commands, then FINISH (R16, R94). -/
def message (P : Params) (cs : List Bytes) (s : State) : Result := andThen (feed P cs s) (finishAt P)

/-- A session at the start of a message: configured, nothing staged (R16). -/
def MessageStart (dir : Dir) (pad : Bool) (s : State) : Prop :=
  s.phase = .configured ∧ s.dir = dir ∧ s.pad = pad ∧ s.len = 0

/-- Whether a response word says OK (R85, R86). -/
def saysOk (w : Word) : Bool := w.extractLsb' 28 4 == 0

/-- The registers PROCESS and FINISH never change (R120), the engine's key (R179), and the channels they do not
touch. -/
structure SameConfig (s t : State) : Prop where
  phase : t.phase = s.phase
  dir : t.dir = s.dir
  pad : t.pad = s.pad
  mode : t.mode = s.mode
  klen : t.klen = s.klen
  key : t.key = s.key
  engineKey : t.es.key = s.es.key
  cmdIn : t.cmdIn = s.cmdIn
  reqIn : t.reqIn = s.reqIn
  resetIn : t.resetIn = s.resetIn
  fresh : t.fresh = s.fresh

/-- A request the engine's contract covers after the requests `before` (R54, R55, R174 P1 to P4); only TRANSFORM has
preconditions on what came before. -/
def requestInContract (P : Params) (before : List Instr) : Instr → Prop
  | .transform d off n =>
    engineReady before = true ∧ directionKept d before = true ∧
    n.toNat % 16 = 0 ∧ P.base ≤ off.toNat ∧ (off.toNat - P.base) % 16 = 0 ∧ off.toNat + n.toNat ≤ P.base + P.cap
  | .setKey kw => kw.length = 4 ∨ kw.length = 6 ∨ kw.length = 8
  | .setIv _ _ _ _ => True
  | .new _ _ _ _ _ => False
  | .process _ => False
  | .finish => False

end Sys2Proof.Machine
end

