-- ==== Sys2Proof/Certificates/Slice0/Obligations.lean ====
section
/-! DEFINITION. The statements for the provers, each formalising rules of spec/. The parameters CAP, BASE, ZEROIZE and
the engine are opaque constants (Config.params) or quantified, so every statement holds for every legal choice of them
(R8); of the engine it may use EngineContract alone (R173). No statement rests on a value that the model chose for reset
or on a free value. -/

open Sys2Proof Sys2Proof.Machine

/-! ## Decoding and encoding -/

/-- R95, R92 and the worked words of 95_test_vectors.md section 2.1, one or more per format. -/
def Obligations.SampleWordsDecode : Prop :=
  decodeCommand 0x11801010#32 = .ok (.new .enc true true 16 16) ∧
  decodeCommand 0x13801010#32 = .ok (.new .dec true true 16 16) ∧
  decodeCommand 0x10000020#32 = .ok (.new .enc false false 0 32) ∧
  decodeCommand 0x20000005#32 = .ok (.process 5) ∧
  decodeCommand 0x30000000#32 = .ok .finish ∧
  decodeCommand 0x10001010#32 = .error .ivLengthWithoutIv ∧
  decodeRequest [0x40000004#32, 1, 2, 3, 4] = .ok (.setKey [1, 2, 3, 4], []) ∧
  decodeRequest [0x80000000#32, 1, 2, 3, 4] = .ok (.setIv 1 2 3 4, []) ∧
  decodeRequest [0xC0000001#32, 0x100, 0x20] = .ok (.transform .dec 0x100 0x20, [])

/-- R88, R91: a word spells a command exactly when `w & mask = match` for its row and, for NEW, `IVP = 1 or
IVLEN = 0` (bit 23, bits 15:8). -/
def Obligations.CommandWordsAreTheTableRows : Prop :=
  ∀ w : Word,
    ((∃ d p v il kl, decodeCommand w = .ok (.new d p v il kl)) ↔
      (w &&& 0xFC7F0000#32 = 0x10000000#32 ∧ (w.getLsbD 23 = true ∨ w.extractLsb' 8 8 = 0))) ∧
    ((∃ n, decodeCommand w = .ok (.process n)) ↔ w &&& 0xFF000000#32 = 0x20000000#32) ∧
    (decodeCommand w = .ok .finish ↔ w = 0x30000000#32)

/-- R88, R92: decoding the words of a well-formed instruction gives it back, with the words after it. -/
def Obligations.DecodeOfEncode : Prop :=
  ∀ (i : Instr) (rest : List Word), i.wellFormed = true → decode (encode i ++ rest) = .ok (i, rest)

/-- R91: every word the command decoder accepts is the one word that encodes the command it stands for. -/
def Obligations.EncodeOfDecodedCommand : Prop :=
  ∀ (w : Word) (i : Instr), decodeCommand w = .ok i →
    i.wellFormed = true ∧ i.onEnginePort = false ∧ encode i = [w]

/-- R92: the same for the words taken from the engine port. -/
def Obligations.EncodeOfDecodedRequest : Prop :=
  ∀ (ws rest : List Word) (i : Instr), decodeRequest ws = .ok (i, rest) →
    i.wellFormed = true ∧ i.onEnginePort = true ∧ encode i ++ rest = ws

/-- R53: words and bytes carry the same information, and the byte at the lowest index is the most significant one of its
word. -/
def Obligations.WordsAndBytesAgree : Prop :=
  (∀ b0 b1 b2 b3 : Byte,
    (be32 b0 b1 b2 b3).toNat = b0.toNat * 2 ^ 24 + b1.toNat * 2 ^ 16 + b2.toNat * 2 ^ 8 + b3.toNat) ∧
  (∀ (b0 b1 b2 b3 : Byte) (bs : Bytes), packWords (b0 :: b1 :: b2 :: b3 :: bs) = be32 b0 b1 b2 b3 :: packWords bs) ∧
  (∀ ws : List Word, packWords (unpackWords ws) = ws) ∧
  (∀ bs : Bytes, bs.length % 4 = 0 → unpackWords (packWords bs) = bs)

/-! ## Steps -/

/-- R61, R64: a step runs the decoded command; around exec it only takes the command word off the channel. -/
def Obligations.StepRunsTheDecodedCommand : Prop :=
  ∀ (w : Word) (rest : List Word) (i : Instr) (s : State),
    s.resetIn = false → s.reqIn = [] → s.cmdIn = w :: rest → decodeCommand w = .ok i →
    payloadBytes i ≤ s.dataIn.length →
    step s = exec i { s with cmdIn := rest }

/-- R92: a request that stands on the engine port is decoded and served; around exec the step only takes its words off
the port. That such a request is a step of its own and goes before any command is the model's choice (log entry 15): the
spec has no sender on that port but the CSB, whose requests complete inside their command (R61(c), R180). -/
def Obligations.StepServesTheDecodedRequest : Prop :=
  ∀ (rest : List Word) (i : Instr) (s : State),
    s.resetIn = false → decodeRequest s.reqIn = .ok (i, rest) →
    step s = exec i { s with reqIn := rest }

/-- R89: the illegal words, by their fields `OP` (31:28), `MODE` (27:26), `Z`, `IVP` (23), `IVLEN` (15:8). Such a word
has no payload, sends nothing to the engine and is answered IllegalCommand; nothing else changes. -/
def Obligations.IllegalWordIsAnswered : Prop :=
  ∀ (w : Word) (rest : List Word) (s : State),
    s.resetIn = false → s.reqIn = [] → s.cmdIn = w :: rest →
    (let op := (w.extractLsb' 28 4).toNat
     op = 0 ∨ 4 ≤ op ∨
      (op = 1 ∧ (w.extractLsb' 26 2 ≠ 0 ∨ w.extractLsb' 16 7 ≠ 0 ∨
        (w.extractLsb' 23 1 = 0 ∧ w.extractLsb' 8 8 ≠ 0))) ∨
      (op = 2 ∧ w.extractLsb' 24 4 ≠ 0) ∨ (op = 3 ∧ w.extractLsb' 0 28 ≠ 0)) →
    step s = .next { s with cmdIn := rest, hostOut := s.hostOut ++ [.response 0x70000000#32] }

/-- R207, R231: with no command the block keeps its state; with a command whose payload is not all there it waits; so
does the engine port with a request whose argument words are not all there. That waiting is a step that changes
nothing is the model's choice (log entry 12). -/
def Obligations.IdleAndWaitingKeepTheState : Prop :=
  ∀ s : State, s.resetIn = false →
    ((s.reqIn = [] ∧ s.cmdIn = []) ∨
      (s.reqIn = [] ∧
        ∃ w rest i, s.cmdIn = w :: rest ∧ decodeCommand w = .ok i ∧ s.dataIn.length < payloadBytes i) ∨
      decodeRequest s.reqIn = .error .argumentWordsMissing) →
    step s = .next s

/-- R37, R220: taking the reset input leaves PHASE, POS, LEN and the channels as the table says, in every state.
That the input is taken between commands and lowered is the model's choice (log entry 20). -/
def Obligations.ResetInputEndsTheSession : Prop :=
  ∀ s : State, s.resetIn = true →
    ∃ t, step s = .next t ∧
      t.phase = .unconfigured ∧ t.pos = 0 ∧ t.len = 0 ∧
      t.cmdIn = [] ∧ t.dataIn = [] ∧ t.hostOut = [] ∧ t.reqIn = []

/-- R37: the state after reset, in the fields to which R37 gives a value. -/
def Obligations.ResetStateIsUnconfigured : Prop :=
  State.reset.phase = .unconfigured ∧ State.reset.pos = 0 ∧ State.reset.len = 0 ∧
  State.reset.cmdIn = [] ∧ State.reset.dataIn = [] ∧ State.reset.hostOut = [] ∧ State.reset.reqIn = []

/-! ## NEW -/

/-- R110, R191, R192, R111: the answer of NEW, by its key length first and its IV length second. -/
def Obligations.NewChecksKeyThenIv : Prop :=
  ∀ (dir : Dir) (pad ivp : Bool) (ivlen klen : BitVec 8) (s : State),
    klen.toNat + ivlen.toNat ≤ s.dataIn.length →
    ∃ t, exec (.new dir pad ivp ivlen klen) s = .next t ∧
      t.hostOut = s.hostOut ++
        [.response (if klen ≠ 16 ∧ klen ≠ 24 ∧ klen ≠ 32 then 0x10000000#32
          else if ivp = true ∧ ivlen ≠ 16 then 0x20000000#32
          else 0#32)]

/-- R110, R112, R113: a NEW that succeeds, from every state. The registers, the engine's key and chaining value, the
two requests in their order, the consumed payload and the answer; nothing else changes but KEY above KLEN, the
workspace (see NewTouchesTheWorkspaceOnlyToZeroize) and what else the engine holds. -/
def Obligations.NewInstallsTheSession : Prop :=
  ∀ (dir : Dir) (pad ivp : Bool) (ivlen klen : BitVec 8) (s : State),
    (Instr.new dir pad ivp ivlen klen).wellFormed = true →
    klen.toNat + ivlen.toNat ≤ s.dataIn.length →
    (klen = 16 ∨ klen = 24 ∨ klen = 32) → (ivp = true → ivlen = 16) →
    ∃ t, exec (.new dir pad ivp ivlen klen) s = .next t ∧
      t.key.1.take klen.toNat = s.dataIn.take klen.toNat ∧
      t.es.key = s.dataIn.take klen.toNat ∧
      t.es.cv.1 = (if ivp then (s.dataIn.drop klen.toNat).take 16 else List.replicate 16 0) ∧
      t.issued = s.issued ++
        [.setKey (packWords t.es.key),
         .setIv (wordAt t.es.cv.1 0) (wordAt t.es.cv.1 1) (wordAt t.es.cv.1 2) (wordAt t.es.cv.1 3)] ∧
      t = { s with
        phase := .configured, dir := dir, pad := pad, mode := 0, klen := BitVec.ofNat 6 klen.toNat, key := t.key
        pos := 0, len := 0, ws := t.ws, es := t.es
        dataIn := s.dataIn.drop (klen.toNat + ivlen.toNat), hostOut := s.hostOut ++ [.response 0#32]
        issued := t.issued }

/-- R199, R113: a NEW that fails, from every state: no engine request, PHASE, POS and LEN are 0, ES is unchanged, one
error response; KEY, KLEN, DIR and PAD are free; the payload is consumed (R90). -/
def Obligations.FailedNewEndsTheSession : Prop :=
  ∀ (dir : Dir) (pad ivp : Bool) (ivlen klen : BitVec 8) (s : State),
    klen.toNat + ivlen.toNat ≤ s.dataIn.length →
    ((klen ≠ 16 ∧ klen ≠ 24 ∧ klen ≠ 32) ∨ (ivp = true ∧ ivlen ≠ 16)) →
    ∃ t, exec (.new dir pad ivp ivlen klen) s = .next t ∧
      t = { s with
        phase := .unconfigured, pos := 0, len := 0
        dir := t.dir, pad := t.pad, klen := t.klen, key := t.key, ws := t.ws
        dataIn := s.dataIn.drop (klen.toNat + ivlen.toNat)
        hostOut := s.hostOut ++
          [.response (if klen ≠ 16 ∧ klen ≠ 24 ∧ klen ≠ 32 then 0x10000000#32 else 0x20000000#32)]
        fresh := t.fresh }

/-- R60, R110: NEW stores nothing; only with ZEROIZE does it clear the data region. -/
def Obligations.NewTouchesTheWorkspaceOnlyToZeroize : Prop :=
  ∀ (dir : Dir) (pad ivp : Bool) (ivlen klen : BitVec 8) (s t : State),
    exec (.new dir pad ivp ivlen klen) s = .next t →
    ∀ a, readByte t.ws a =
      if Config.params.zeroize = true ∧ Config.params.base ≤ a ∧ a < Config.params.base + Config.params.cap then 0
      else readByte s.ws a

/-! ## PROCESS and FINISH without a session -/

/-- R117: PROCESS and FINISH in phase UNCONFIGURED are answered ILLEGAL and change nothing; PROCESS consumes its
payload. -/
def Obligations.WithoutSessionIllegal : Prop :=
  (∀ (n : BitVec 24) (s : State), s.phase = .unconfigured → n.toNat ≤ s.dataIn.length →
    exec (.process n) s =
      .next { s with dataIn := s.dataIn.drop n.toNat, hostOut := s.hostOut ++ [.response 0x70000000#32] }) ∧
  (∀ s : State, s.phase = .unconfigured →
    exec .finish s = .next { s with hostOut := s.hostOut ++ [.response 0x70000000#32] })

/-! ## PROCESS -/

/-- R130 (a), R150 (a), R152: an empty chunk changes nothing, in every direction and with or without padding. -/
def Obligations.EmptyChunkChangesNothing : Prop :=
  ∀ s : State, s.phase = .configured →
    exec (.process 0) s = .next { s with hostOut := s.hostOut ++ [.response 0#32] }

/-- R130, R131, R134: PROCESS in an encrypt session, for every chunk length the word can carry. The output is the
transform of the staged bytes and the chunk cut to whole blocks; the rest is staged. Where the staged bytes stand
afterwards (POS) depends on CAP; an empty chunk leaves them where they are. -/
def Obligations.ProcessEncryptResult : Prop :=
  ∀ (n : BitVec 24) (s : State),
    Inv Config.params s → s.phase = .configured → s.dir = .enc → n.toNat ≤ s.dataIn.length →
    let all := stagedBytes Config.params s ++ s.dataIn.take n.toNat
    let total := s.len + n.toNat
    let rlen := total - total % 16
    let r := Config.params.engine.transformBytes s.es .enc (all.take rlen)
    ∃ t, exec (.process n) s = .next t ∧
      r.2.length = rlen ∧
      stagedBytes Config.params t = all.drop rlen ∧
      t = { s with
        pos := if n = 0 then s.pos else t.pos, len := total % 16, ws := t.ws, es := r.1
        dataIn := s.dataIn.drop n.toNat
        hostOut := s.hostOut ++ .response (BitVec.ofNat 32 rlen) :: r.2.map .output
        issued := t.issued, replyOut := t.replyOut }

/-- R150, R151, R152: PROCESS in a decrypt session, for every chunk length the word can carry. `plen` is the reserve:
what is beyond the last whole block, or, with padding and none beyond it, one whole block; an empty chunk releases
nothing and leaves the cursor unchanged. -/
def Obligations.ProcessDecryptResult : Prop :=
  ∀ (n : BitVec 24) (s : State),
    Inv Config.params s → s.phase = .configured → s.dir = .dec → n.toNat ≤ s.dataIn.length →
    let all := stagedBytes Config.params s ++ s.dataIn.take n.toNat
    let total := s.len + n.toNat
    let plen := if s.pad = true ∧ total % 16 = 0 then 16 else total % 16
    let out := if n = 0 then 0 else total - plen
    let r := Config.params.engine.transformBytes s.es .dec (all.take out)
    ∃ t, exec (.process n) s = .next t ∧
      r.2.length = out ∧ out % 16 = 0 ∧
      stagedBytes Config.params t = all.drop out ∧
      t = { s with
        pos := if n = 0 then s.pos else t.pos, len := if n = 0 then s.len else plen, ws := t.ws, es := r.1
        dataIn := s.dataIn.drop n.toNat
        hostOut := s.hostOut ++ .response (BitVec.ofNat 32 out) :: r.2.map .output
        issued := t.issued, replyOut := t.replyOut }

/-- R57, R66, R132: the frame of PROCESS over the workspace. -/
def Obligations.ProcessStoresOnlyWhereItStages : Prop :=
  ∀ (n : BitVec 24) (s t : State), CursorInv Config.params s → exec (.process n) s = .next t →
    ∀ a, (∀ x, a = dataAddr Config.params x → ¬ processTouches Config.params s n.toNat x) →
      readByte t.ws a = readByte s.ws a

/-- R120, R171, R179: what PROCESS and FINISH never change, in every state: PHASE, DIR, PAD, MODE, KLEN, KEY, the
engine's key, the command channel, the engine port's pending words. -/
def Obligations.ProcessAndFinishKeepConfiguration : Prop :=
  (∀ (n : BitVec 24) (s t : State), exec (.process n) s = .next t → SameConfig s t) ∧
  (∀ s t : State, exec .finish s = .next t → SameConfig s t)

/-! ## FINISH -/

/-- R140, R141, R142: FINISH of an encrypt session with padding outputs exactly one block: the staged bytes and the
pad, transformed. -/
def Obligations.FinishEncryptPadsToOneBlock : Prop :=
  ∀ s : State, Inv Config.params s → s.phase = .configured → s.dir = .enc → s.pad = true →
    let p := 16 - s.len
    let r := Config.params.engine.transformBytes s.es .enc
      (stagedBytes Config.params s ++ List.replicate p (BitVec.ofNat 8 p))
    ∃ t, exec .finish s = .next t ∧
      r.2.length = 16 ∧
      t = { s with
        pos := 0, len := 0, ws := t.ws, es := r.1
        hostOut := s.hostOut ++ .response 16#32 :: r.2.map .output
        issued := s.issued ++ [.transform .enc (BitVec.ofNat 32 (Config.params.base + s.pos)) 16]
        replyOut := s.replyOut ++ [16] }

/-- R140, R141: FINISH of an encrypt session without padding and with nothing staged outputs nothing and stores nothing
but by the zeroization. -/
def Obligations.FinishEncryptUnpaddedEmpty : Prop :=
  ∀ s : State, s.phase = .configured → s.dir = .enc → s.pad = false → s.len = 0 →
    ∃ t, exec .finish s = .next t ∧
      t = { s with
        pos := 0, len := 0, hostOut := s.hostOut ++ [.response 0#32]
        ws := if Config.params.zeroize then zeroBytes s.ws Config.params.base Config.params.cap else s.ws
        issued := s.issued ++ [.transform .enc (BitVec.ofNat 32 (Config.params.base + s.pos)) 0]
        replyOut := s.replyOut ++ [0] }

/-- R193, R200: UnalignedInput, in an encrypt session without padding and in any decrypt session: the cursor is empty,
ES is unchanged, nothing is sent to the engine, nothing is output, and nothing is stored but by the zeroization. -/
def Obligations.FinishUnalignedInput : Prop :=
  ∀ s : State, s.phase = .configured → (s.dir = .dec ∨ s.pad = false) → s.len % 16 ≠ 0 →
    ∃ t, exec .finish s = .next t ∧
      t = { s with
        pos := 0, len := 0, hostOut := s.hostOut ++ [.response 0x30000000#32]
        ws := if Config.params.zeroize then zeroBytes s.ws Config.params.base Config.params.cap else s.ws }

/-- R160 (a), R198: FINISH of an empty message in a decrypt session returns nothing, asks nothing of the engine and
stores nothing but by the zeroization. -/
def Obligations.FinishDecryptEmpty : Prop :=
  ∀ s : State, s.phase = .configured → s.dir = .dec → s.len = 0 →
    ∃ t, exec .finish s = .next t ∧
      t = { s with
        pos := 0, len := 0, hostOut := s.hostOut ++ [.response 0#32]
        ws := if Config.params.zeroize then zeroBytes s.ws Config.params.base Config.params.cap else s.ws }

/-- R160, R161, R163, R194, R200: FINISH of a padded decrypt session with a block staged. `p` is its last transformed
byte; the check passes exactly when `p` is 1 to 16 and the last `p` bytes all equal `p`. -/
def Obligations.FinishDecryptChecksPadding : Prop :=
  ∀ s : State, Inv Config.params s → s.phase = .configured → s.dir = .dec → s.pad = true → s.len = 16 →
    let r := Config.params.engine.transformBytes s.es .dec (stagedBytes Config.params s)
    let p := (r.2.getD 15 0).toNat
    let good := 1 ≤ p ∧ p ≤ 16 ∧ ∀ j, j < p → (r.2.getD (15 - j) 0).toNat = p
    ∃ t, exec .finish s = .next t ∧
      (good →
        t.hostOut = s.hostOut ++ .response (BitVec.ofNat 32 (16 - p)) :: (r.2.take (16 - p)).map .output) ∧
      (¬ good → t.hostOut = s.hostOut ++ [.response 0x40000000#32]) ∧
      t = { s with
        pos := 0, len := 0, ws := t.ws, es := r.1, hostOut := t.hostOut
        issued := s.issued ++ [.transform .dec (BitVec.ofNat 32 (Config.params.base + s.pos)) 16]
        replyOut := s.replyOut ++ [16] }

/-- R161: the sixteen lanes and the range test decide exactly the PKCS#7 condition, on every sequence of whole
blocks. -/
def Obligations.PadCheckIsPkcs7 : Prop :=
  ∀ b : Bytes, b.length % 16 = 0 → b ≠ [] →
    (padOk b = true ↔
      (1 ≤ (padByte b).toNat ∧ (padByte b).toNat ≤ 16 ∧
        ∀ j, j < (padByte b).toNat → b.getD (b.length - 1 - j) 0 = padByte b))

/-- R142: the pad for `l` staged bytes. -/
def Obligations.PadGeneratorTable : Prop :=
  ∀ l, l < 16 →
    padBytes (padLength l) = List.replicate (16 - l) (BitVec.ofNat 8 (16 - l)) ∧
    ∀ b ∈ padBytes (padLength l), b.toNat = 16 - l

/-- R57, R60, R66, R193: the frame of FINISH over the workspace. It stores the pad after the staged bytes (encrypt with
padding) and has the staged bytes and the pad transformed in place; with ZEROIZE it clears the data region. With the
UnalignedInput answer nothing is stored. `k` is the number of pad bytes, `touched` the number of bytes from POS on that
may change. -/
def Obligations.FinishStoresOnlyStagedAndPad : Prop :=
  ∀ s t : State, s.phase = .configured → exec .finish s = .next t →
    let k := if s.dir = .enc ∧ s.pad = true then padLength s.len else 0
    let touched := if s.len % 16 ≠ 0 ∧ (s.dir = .dec ∨ s.pad = false) then 0 else s.len + k
    ∀ a, (Config.params.zeroize = true → ¬ (Config.params.base ≤ a ∧ a < Config.params.base + Config.params.cap)) →
      ¬ (dataAddr Config.params s.pos ≤ a ∧ a < dataAddr Config.params s.pos + touched) →
      readByte t.ws a = readByte s.ws a

/-- R60: in a machine with ZEROIZE every byte of the data region is 0x00 after a FINISH of a session, after a NEW, and
after the reset input is taken, whatever the answer. `exec` and `step` use `finishAt`, `newAt` and `takeReset` at
Config.params. -/
def Obligations.ZeroizeClearsTheWorkspace : Prop :=
  ∀ P : Params, P.zeroize = true →
    (∀ s t : State, s.phase = .configured → finishAt P s = .next t →
      ∀ a, P.base ≤ a → a < P.base + P.cap → readByte t.ws a = 0) ∧
    (∀ (dir : Dir) (pad ivp : Bool) (ivlen klen : BitVec 8) (s t : State),
      newAt P dir pad ivp ivlen klen s = .next t →
      ∀ a, P.base ≤ a → a < P.base + P.cap → readByte t.ws a = 0) ∧
    (∀ (s : State) (a : Nat), readByte (takeReset P s).ws a = 0)

/-! ## The engine port -/

/-- R170, R179: SET_KEY. The chaining value afterwards, and what else the engine holds, is the engine's business; the key
is the words' bytes and no other state changes but the port's traffic. -/
def Obligations.SetKeyInstallsTheKey : Prop :=
  ∀ (kw : List Word) (s : State), (Instr.setKey kw).wellFormed = true →
    ∃ t, exec (.setKey kw) s = .next t ∧
      t.es.key = unpackWords kw ∧
      t = { s with es := t.es, issued := s.issued ++ [.setKey kw] }

/-- R171, R179: SET_IV. The key stays; what else the engine holds is its own business. -/
def Obligations.SetIvInstallsTheChainingValue : Prop :=
  ∀ (w0 w1 w2 w3 : Word) (s : State),
    ∃ t, exec (.setIv w0 w1 w2 w3) s = .next t ∧
      t.es.cv.1 = unpackWords [w0, w1, w2, w3] ∧ t.es.key = s.es.key ∧
      t = { s with es := t.es, issued := s.issued ++ [.setIv w0 w1 w2 w3] }

/-- R172, R173, R174 P1 to P4, R175: TRANSFORM within its preconditions: the run is replaced by its transform, ES
advances, the reply is the length; no other byte of the workspace and no other state changes. -/
def Obligations.TransformReplacesTheRun : Prop :=
  ∀ (d : Dir) (off nbytes : Word) (s : State),
    s.ws.wf → engineReady s.issued = true → directionKept d s.issued = true →
    nbytes.toNat % 16 = 0 → Config.params.base ≤ off.toNat → (off.toNat - Config.params.base) % 16 = 0 →
    off.toNat + nbytes.toNat ≤ Config.params.base + Config.params.cap →
    let r := Config.params.engine.transformBytes s.es d (readBytes s.ws off.toNat nbytes.toNat)
    ∃ t, exec (.transform d off nbytes) s = .next t ∧
      readBytes t.ws off.toNat nbytes.toNat = r.2 ∧
      (∀ a, ¬ (off.toNat ≤ a ∧ a < off.toNat + nbytes.toNat) → readByte t.ws a = readByte s.ws a) ∧
      t = { s with
        ws := t.ws, es := r.1, issued := s.issued ++ [.transform d off nbytes], replyOut := s.replyOut ++ [nbytes] }

/-- R174 P1 to P4, U11, R51: where TRANSFORM has no meaning, in every machine: before SET_KEY and SET_IV; against the
direction of an earlier TRANSFORM under the same key; at no multiple of 16 from BASE; with a length that is no multiple of
16; in the engine's own region; beyond the workspace. `exec` is the case of Config.params. The names of the stops and
which of two goes first are the model's choice (log entry 16). -/
def Obligations.TransformStopsOutsideTheContract : Prop :=
  (∀ (d : Dir) (off nbytes : Word) (s : State),
    exec (.transform d off nbytes) s = transformAt Config.params d off nbytes s) ∧
  ∀ (P : Params) (d : Dir) (off nbytes : Word) (s : State),
    (engineReady s.issued = false → transformAt P d off nbytes s = .refused .engineNotReady) ∧
    (engineReady s.issued = true → directionKept d s.issued = false →
      transformAt P d off nbytes s = .refused .engineDirection) ∧
    (engineReady s.issued = true → directionKept d s.issued = true → nbytes ≠ 0 →
      (P.base ≤ off.toNat → (off.toNat - P.base) % 16 ≠ 0 →
        transformAt P d off nbytes s = .refused .engineOffset) ∧
      ((off.toNat < P.base ∨ (off.toNat - P.base) % 16 = 0) →
        (nbytes.toNat % 16 ≠ 0 → transformAt P d off nbytes s = .refused .engineLength) ∧
        (nbytes.toNat % 16 = 0 → off.toNat < P.base → transformAt P d off nbytes s = .refused .engineRegion) ∧
        (nbytes.toNat % 16 = 0 → P.base ≤ off.toNat → P.base + P.cap < off.toNat + nbytes.toNat →
          transformAt P d off nbytes s = .fault .noSuchAddress)))

/-- R176 (EC4): a request of length 0 changes nothing but the port's traffic and replies 0, in every state that meets P1
and P4 of R174, whatever its offset. -/
def Obligations.ZeroLengthTransformChangesNothing : Prop :=
  ∀ (d : Dir) (off : Word) (s : State), engineReady s.issued = true → directionKept d s.issued = true →
    exec (.transform d off 0) s =
      .next { s with issued := s.issued ++ [.transform d off 0], replyOut := s.replyOut ++ [0] }

/-- R181, R177 (EC5): in the engine of the CBC structure runs can be cut, over every permutation for every key. -/
def Obligations.EngineRunsCanBeCut : Prop :=
  ∀ (E : Bytes → Equiv.Perm Block) (es es1 es2 : EngineState) (d : Dir) (x1 x2 y1 y2 : Bytes),
    x1.length % 16 = 0 → x2.length % 16 = 0 →
    (cbcEngine E).transformBytes es d x1 = (es1, y1) → (cbcEngine E).transformBytes es1 d x2 = (es2, y2) →
    (cbcEngine E).transformBytes es d (x1 ++ x2) = (es2, y1 ++ y2)

/-- R181, R178 (EC6): in the engine of the CBC structure decrypt undoes encrypt, and both end in the same chaining
value. -/
def Obligations.EngineDecryptUndoesEncrypt : Prop :=
  ∀ (E : Bytes → Equiv.Perm Block) (es es' es1 : EngineState) (x y : Bytes),
    x.length % 16 = 0 → es'.key = es.key → es'.cv = es.cv → (cbcEngine E).transformBytes es .enc x = (es1, y) →
    ∃ es1', (cbcEngine E).transformBytes es' .dec y = (es1', x) ∧ es1'.cv = es1.cv

/-- R173, R181: the engine of the CBC structure, over every permutation for every key, meets the whole contract. -/
def Obligations.CbcEngineMeetsTheContract : Prop :=
  ∀ E : Bytes → Equiv.Perm Block, EngineContract (cbcEngine E)

/-- R54, R55, R174 P1 to P4: every request a step from a sound state sends is inside the engine's contract, given all
requests before it, and every TRANSFORM carries the session's direction. -/
def Obligations.RequestsStayInTheEngineContract : Prop :=
  ∀ s t : State, Inv Config.params s → EngineInv s → s.resetIn = false → step s = .next t →
    ∃ sent, t.issued = s.issued ++ sent ∧
      ∀ before q later, sent = before ++ q :: later →
        requestInContract Config.params (s.issued ++ before) q ∧ ∀ d off n, q = .transform d off n → d = s.dir

/-- R112, R171: only NEW sends SET_KEY and SET_IV; PROCESS and FINISH send TRANSFORM requests only, in every state. -/
def Obligations.ProcessAndFinishSendOnlyTransforms : Prop :=
  ∀ (i : Instr) (s t : State), (i = .finish ∨ ∃ n, i = .process n) → exec i s = .next t →
    ∃ sent, t.issued = s.issued ++ sent ∧ ∀ q ∈ sent, ∃ off n, q = .transform s.dir off n

/-! ## The machine as a whole -/

/-- R14, R85, R86, R196: every host command that completes from a sound state is answered by exactly one response
word, sent before its OLEN output bytes, at most 2^24; with an error there are none; InvalidInputType is never
produced. -/
def Obligations.OneResponsePerCommand : Prop :=
  ∀ (i : Instr) (s t : State), Inv Config.params s → i.onEnginePort = false → exec i s = .next t →
    ∃ (st : Status) (out : Bytes),
      t.hostOut = s.hostOut ++ .response (statusCode st ++ BitVec.ofNat 28 out.length) :: out.map .output ∧
      out.length ≤ 2 ^ 24 ∧ (st ≠ .ok → out = []) ∧ st ≠ .invalidInputType

/-- R28, R114: the lifecycle over PHASE: a NEW that succeeds sets it, a NEW that fails clears it, nothing else a step
executes writes it. -/
def Obligations.OnlyNewWritesPhase : Prop :=
  ∀ (i : Instr) (s t : State), exec i s = .next t →
    t.phase = match i with
      | .new _ _ ivp ivlen klen =>
        if (klen = 16 ∨ klen = 24 ∨ klen = 32) ∧ (ivp = true → ivlen = 16) then .configured else .unconfigured
      | .process _ | .finish | .setKey _ | .setIv _ _ _ _ | .transform _ _ _ => s.phase

/-- The invariants hold after reset (R23, R37). That MODE is 0 there is the model's choice (log entry 5). -/
def Obligations.ResetMeetsTheInvariants : Prop :=
  Inv Config.params State.reset ∧ EngineInv State.reset

/-- R23: INV1 to INV5, the canonical form of the workspace, and the legal values of MODE and KLEN are kept by every
step, whatever it does: a command, an error, an illegal word, a request on the engine port, a reset. -/
def Obligations.StepKeepsTheInvariants : Prop :=
  ∀ s t : State, Inv Config.params s → step s = .next t → Inv Config.params t

/-- R27, R33, R61, R174 P1, P4: a step that starts with no request standing on the engine port ends so, the engine's key
stays the session's key, and the engine stays ready for a TRANSFORM of the session's direction. -/
def Obligations.StepKeepsTheEngineKey : Prop :=
  ∀ s t : State, Inv Config.params s → EngineInv s → step s = .next t → EngineInv t

/-- R23 INV6: in a padded decrypt session at least one byte stays staged once one was received. -/
def Obligations.PaddedDecryptWithholds : Prop :=
  ∀ (n : BitVec 24) (s t : State),
    Inv Config.params s → s.phase = .configured → s.dir = .dec → s.pad = true → (n ≠ 0 ∨ 1 ≤ s.len) →
    exec (.process n) s = .next t → 1 ≤ t.len ∧ t.len ≤ 16

/-- R231, R132, R56: from every sound state with no request on the engine port a step completes: no fault, no
refusal. -/
def Obligations.EveryStepCompletes : Prop :=
  ∀ s : State, Inv Config.params s → s.reqIn = [] → ∃ t, step s = .next t

/-- R133, R153: two PROCESS commands do what one with the two chunks joined does: the same output bytes, engine state,
staged bytes, in both directions, with and without padding. -/
def Obligations.ChunkingIsInvisible : Prop :=
  ∀ (n1 n2 n : BitVec 24) (s : State),
    Inv Config.params s → s.phase = .configured →
    n.toNat = n1.toNat + n2.toNat → n.toNat ≤ s.dataIn.length →
    ∃ t1 t2 u, exec (.process n1) s = .next t1 ∧ exec (.process n2) t1 = .next t2 ∧ exec (.process n) s = .next u ∧
      outputBytes t2.hostOut = outputBytes u.hostOut ∧ t2.es = u.es ∧ t2.len = u.len ∧ t2.dataIn = u.dataIn ∧
      stagedBytes Config.params t2 = stagedBytes Config.params u

/-- R9, R58: what the host sees does not depend on CAP, BASE or ZEROIZE, nor on any byte a rule has not staged: two
machines with the same engine that hold the same session give the same answers, hold the same session afterwards and stay
sound, so this goes on command by command. -/
def Obligations.HostResultsIgnoreGeometry : Prop :=
  ∀ (P Q : Params) (s t : State), EngineContract P.engine → P.engine = Q.engine →
    Inv P s → Inv Q t → SameSession P Q s t →
    (∀ dir pad ivp ivlen klen s', newAt P dir pad ivp ivlen klen s = .next s' →
      ∃ t', newAt Q dir pad ivp ivlen klen t = .next t' ∧ SameSession P Q s' t' ∧ Inv P s' ∧ Inv Q t') ∧
    (∀ n s', processAt P n s = .next s' →
      ∃ t', processAt Q n t = .next t' ∧ SameSession P Q s' t' ∧ Inv P s' ∧ Inv Q t') ∧
    (∀ s', finishAt P s = .next s' →
      ∃ t', finishAt Q t = .next t' ∧ SameSession P Q s' t' ∧ Inv P s' ∧ Inv Q t')

/-- R143: the whole output of a padded encrypt message, however it is cut into chunks, is the transform of the message
and its pad, of length `16 * (|M| / 16 + 1)`, and every command is answered OK. -/
def Obligations.PaddedMessageEncrypts : Prop :=
  ∀ (P : Params) (cs : List Bytes) (s : State), EngineContract P.engine → Inv P s → MessageStart .enc true s →
    let m := cs.flatten
    let p := 16 - m.length % 16
    let r := P.engine.transformBytes s.es .enc (m ++ List.replicate p (BitVec.ofNat 8 p))
    ∃ t, message P cs s = .next t ∧ outputBytes t.hostOut = outputBytes s.hostOut ++ r.2 ∧ t.es = r.1 ∧
      r.2.length = 16 * (m.length / 16 + 1) ∧
      MessageStart .enc true t ∧ Inv P t ∧
      ∃ rs, responseWords t.hostOut = responseWords s.hostOut ++ rs ∧
        rs.length = cs.length + 1 ∧ ∀ w ∈ rs, saysOk w = true

/-- R164: round trip. What a padded encrypt session outputs for a message, cut into chunks in any way, a padded decrypt
session that starts from the same key and chaining value turns back into the message, and every command of the
decryption is answered OK. -/
def Obligations.DecryptOfEncryptIsTheMessage : Prop :=
  ∀ (P : Params) (cs ds : List Bytes) (s s' t : State), EngineContract P.engine →
    Inv P s → MessageStart .enc true s → Inv P s' → MessageStart .dec true s' →
    s'.es.key = s.es.key → s'.es.cv = s.es.cv →
    message P cs s = .next t → outputBytes t.hostOut = outputBytes s.hostOut ++ ds.flatten →
    ∃ t', message P ds s' = .next t' ∧ outputBytes t'.hostOut = outputBytes s'.hostOut ++ cs.flatten ∧
      ∃ rs, responseWords t'.hostOut = responseWords s'.hostOut ++ rs ∧
        rs.length = ds.length + 1 ∧ ∀ w ∈ rs, saysOk w = true

/-- R114, R118, R119, R203: after any FINISH of a session the session is at the start of a new message with the same
configuration and the same engine key, whatever the answer was. -/
def Obligations.FinishStartsANewMessage : Prop :=
  ∀ s t : State, s.phase = .configured → exec .finish s = .next t →
    MessageStart s.dir s.pad t ∧ t.pos = 0 ∧ t.es.key = s.es.key ∧
    (t.issued = s.issued → t.es = s.es)
end

