-- ==== Sys2Proof/Laws/Memory.lean ====
section
/-! SUPPORT. The workspace: every memory operation keeps the canonical form, a read after a write gives the byte
written, and a write leaves every other byte alone. -/

namespace Sys2Proof.Machine

/-! ## One byte -/

@[simp] theorem readByte_nil (a : Nat) : readByte [] a = unlistedByte := rfl

/-- A write leaves every other byte alone, in every memory. -/
theorem readByte_writeByte_other (m : Memory) {a b : Nat} (v : Byte) (h : b ≠ a) :
    readByte (writeByte m a v) b = readByte m b := by
  induction m with
  | nil => unfold writeByte; split <;> simp [readByte, h.symm]
  | cons c t ih =>
    obtain ⟨x, u⟩ := c
    unfold writeByte
    split
    · split <;> simp [readByte, h.symm]
    · split
      · subst_vars; split <;> simp [readByte, h.symm]
      · simp [readByte, ih]

/-- Below the first address of a memory in canonical form every byte reads as unlisted. -/
theorem readByte_of_lt {m : Memory} {a : Nat} (h : ∀ c ∈ m, a < c.1) : readByte m a = unlistedByte := by
  induction m with
  | nil => rfl
  | cons c t ih =>
    have h1 := h c (by simp)
    have : ¬ c.1 = a := by omega
    simp only [readByte, this, if_false]
    exact ih fun d hd => h d (by simp [hd])

theorem Memory.wf_tail {c : Host.Cell} {t : Memory} (h : Memory.wf (c :: t)) : Memory.wf t :=
  ⟨(List.pairwise_cons.1 h.1).2, fun d hd => h.2 d (by simp [hd])⟩

theorem Memory.wf_head {c : Host.Cell} {t : Memory} (h : Memory.wf (c :: t)) : ∀ d ∈ t, c.1 < d.1 :=
  (List.pairwise_cons.1 h.1).1

/-- A read after a write to the same place gives the byte written. -/
theorem readByte_writeByte_same {m : Memory} (a : Nat) (v : Byte) (h : m.wf) :
    readByte (writeByte m a v) a = v := by
  induction m with
  | nil => unfold writeByte; split <;> simp_all [readByte]
  | cons c t ih =>
    obtain ⟨x, u⟩ := c
    have ht := Memory.wf_head h
    unfold writeByte
    split
    · split
      · rename_i hlt hv
        rw [hv]
        exact readByte_of_lt fun d hd => by
          rcases List.mem_cons.1 hd with rfl | hd
          · exact hlt
          · have := ht d hd; simp at this; omega
      · simp [readByte]
    · split
      · rename_i hlt hx
        subst hx
        split
        · rename_i hv
          rw [hv]
          exact readByte_of_lt fun d hd => by simpa using ht d hd
        · simp [readByte]
      · rename_i hlt hne
        have : ¬ x = a := fun e => hne e.symm
        simp [readByte, this, ih (Memory.wf_tail h)]

/-- Both cases of a read after a write. -/
theorem readByte_writeByte {m : Memory} (a b : Nat) (v : Byte) (h : m.wf) :
    readByte (writeByte m a v) b = if b = a then v else readByte m b := by
  split
  · subst_vars; exact readByte_writeByte_same _ v h
  · exact readByte_writeByte_other m v ‹_›

/-- What a write lists: the new address, or what was listed. -/
theorem mem_writeByte {m : Memory} {a : Nat} {v : Byte} {c : Host.Cell} (h : c ∈ writeByte m a v) :
    c = (a, v) ∧ v ≠ unlistedByte ∨ c ∈ m := by
  induction m with
  | nil => unfold writeByte at h; split at h <;> simp_all
  | cons d t ih =>
    obtain ⟨x, u⟩ := d
    unfold writeByte at h
    split at h
    · split at h
      · exact .inr h
      · rcases List.mem_cons.1 h with rfl | h
        · exact .inl ⟨rfl, ‹_›⟩
        · exact .inr h
    · split at h
      · split at h
        · exact .inr (by simp [h])
        · rcases List.mem_cons.1 h with rfl | h
          · exact .inl ⟨rfl, ‹_›⟩
          · exact .inr (by simp [h])
      · rcases List.mem_cons.1 h with rfl | h
        · exact .inr (by simp)
        · rcases ih h with h | h
          · exact .inl h
          · exact .inr (by simp [h])

/-- A write keeps the canonical form. -/
theorem writeByte_wf {m : Memory} (a : Nat) (v : Byte) (h : m.wf) : (writeByte m a v).wf := by
  refine ⟨?_, fun c hc => ?_⟩
  · induction m with
    | nil => unfold writeByte; split <;> simp
    | cons d t ih =>
      obtain ⟨x, u⟩ := d
      have ht := Memory.wf_head h
      have hp := (List.pairwise_cons.1 h.1).2
      unfold writeByte
      split
      · split
        · exact h.1
        · refine List.pairwise_cons.2 ⟨fun e he => ?_, h.1⟩
          rcases List.mem_cons.1 he with rfl | he
          · assumption
          · have := ht e he; simp at this ⊢; omega
      · split
        · subst_vars
          split
          · exact hp
          · exact List.pairwise_cons.2 ⟨fun e he => by simpa using ht e he, hp⟩
        · refine List.pairwise_cons.2 ⟨fun e he => ?_, ih (Memory.wf_tail h)⟩
          rcases mem_writeByte he with ⟨rfl, -⟩ | he
          · simp; omega
          · exact ht e he
  · rcases mem_writeByte hc with ⟨rfl, hv⟩ | hc
    · exact hv
    · exact h.2 c hc

/-! ## Runs of bytes -/

@[simp] theorem readBytes_length (m : Memory) (a n : Nat) : (readBytes m a n).length = n := by simp [readBytes]

@[simp] theorem readBytes_zero (m : Memory) (a : Nat) : readBytes m a 0 = [] := rfl

theorem readBytes_getElem (m : Memory) (a n i : Nat) (h : i < (readBytes m a n).length) :
    (readBytes m a n)[i] = readByte m (a + i) := by simp [readBytes]

/-- A run read in two parts (R52). -/
theorem readBytes_append (m : Memory) (a n k : Nat) :
    readBytes m a (n + k) = readBytes m a n ++ readBytes m (a + n) k := by
  simp [readBytes, List.range_add, Function.comp_def, Nat.add_assoc]

/-- Two memories that agree on a run give the same run. -/
theorem readBytes_congr {m m' : Memory} {a n : Nat}
    (h : ∀ i, i < n → readByte m (a + i) = readByte m' (a + i)) : readBytes m a n = readBytes m' a n := by
  apply List.ext_getElem
  · simp
  · intro i h1 h2
    rw [readBytes_getElem, readBytes_getElem]
    exact h i (by simpa using h1)

/-- The first `k` bytes of a run. -/
theorem readBytes_take (m : Memory) (a n k : Nat) (h : k ≤ n) : (readBytes m a n).take k = readBytes m a k := by
  obtain ⟨j, rfl⟩ := Nat.exists_eq_add_of_le h
  rw [readBytes_append, List.take_left' (by simp)]

/-- What is beyond the first `k` bytes of a run. -/
theorem readBytes_drop (m : Memory) (a n k : Nat) (h : k ≤ n) :
    (readBytes m a n).drop k = readBytes m (a + k) (n - k) := by
  obtain ⟨j, rfl⟩ := Nat.exists_eq_add_of_le h
  rw [readBytes_append, List.drop_left' (by simp)]
  simp

@[simp] theorem writeBytes_nil (m : Memory) (a : Nat) : writeBytes m a [] = m := rfl

/-- A run of writes keeps the canonical form. -/
theorem writeBytes_wf {m : Memory} (a : Nat) (bs : Bytes) (h : m.wf) : (writeBytes m a bs).wf := by
  induction bs generalizing m a with
  | nil => exact h
  | cons b t ih => exact ih (a + 1) (writeByte_wf a b h)

/-- A run of writes leaves every byte outside the run alone, in every memory. -/
theorem readByte_writeBytes_other (m : Memory) (a : Nat) (bs : Bytes) {x : Nat}
    (h : ¬ (a ≤ x ∧ x < a + bs.length)) : readByte (writeBytes m a bs) x = readByte m x := by
  induction bs generalizing m a with
  | nil => rfl
  | cons b t ih =>
    simp only [List.length_cons] at h
    rw [writeBytes, ih _ _ (by omega), readByte_writeByte_other m b (by omega)]

/-- A read after a run of writes gives the byte written there. -/
theorem readByte_writeBytes_inside {m : Memory} (a : Nat) (bs : Bytes) (h : m.wf) (i : Nat) (hi : i < bs.length) :
    readByte (writeBytes m a bs) (a + i) = bs[i] := by
  induction bs generalizing m a i with
  | nil => simp at hi
  | cons b t ih =>
    cases i with
    | zero =>
      rw [writeBytes, readByte_writeBytes_other _ _ _ (by omega)]
      simpa using readByte_writeByte_same a b h
    | succ j =>
      have := ih (a + 1) (writeByte_wf a b h) j (by simpa using hi)
      rw [writeBytes, show a + (j + 1) = a + 1 + j by omega, this]
      simp

/-- A run read back after it was written. -/
theorem readBytes_writeBytes {m : Memory} (a : Nat) (bs : Bytes) (h : m.wf) :
    readBytes (writeBytes m a bs) a bs.length = bs := by
  apply List.ext_getElem
  · simp
  · intro i h1 h2
    rw [readBytes_getElem, readByte_writeBytes_inside a bs h i h2]

/-- A run read back after it was written, its length given apart. -/
theorem readBytes_writeBytes' {m : Memory} (a : Nat) (bs : Bytes) {n : Nat} (h : m.wf) (hn : bs.length = n) :
    readBytes (writeBytes m a bs) a n = bs := by subst hn; exact readBytes_writeBytes a bs h

/-- A run that a run of writes does not meet. -/
theorem readBytes_writeBytes_disjoint (m : Memory) (a : Nat) (bs : Bytes) {x n : Nat}
    (h : x + n ≤ a ∨ a + bs.length ≤ x) : readBytes (writeBytes m a bs) x n = readBytes m x n :=
  readBytes_congr fun i hi => readByte_writeBytes_other m a bs (by omega)

/-- What a run of writes lists. -/
theorem mem_writeBytes {m : Memory} {a : Nat} {bs : Bytes} {c : Host.Cell} (h : c ∈ writeBytes m a bs) :
    (a ≤ c.1 ∧ c.1 < a + bs.length) ∨ c ∈ m := by
  induction bs generalizing m a with
  | nil => exact .inr h
  | cons b t ih =>
    simp only [List.length_cons]
    rcases ih h with h | h
    · left; omega
    · rcases mem_writeByte h with ⟨rfl, -⟩ | h
      · left; simp
      · exact .inr h

/-! ## Zeroization -/

/-- Zeroization keeps the canonical form. -/
theorem zeroBytes_wf {m : Memory} (a n : Nat) (h : m.wf) : (zeroBytes m a n).wf :=
  ⟨h.1.filter _, fun c hc => h.2 c (List.mem_filter.1 hc).1⟩

/-- Zeroization lists nothing new. -/
theorem mem_of_mem_zeroBytes {m : Memory} {a n : Nat} {c : Host.Cell} (h : c ∈ zeroBytes m a n) : c ∈ m :=
  (List.mem_filter.1 h).1

/-- After zeroization the region reads 0x00 and every other byte as before, in every memory (R60). -/
theorem readByte_zeroBytes (m : Memory) (a n x : Nat) :
    readByte (zeroBytes m a n) x = if a ≤ x ∧ x < a + n then unlistedByte else readByte m x := by
  induction m with
  | nil => simp [zeroBytes]
  | cons c t ih =>
    obtain ⟨b, v⟩ := c
    have ih' : readByte (List.filter (fun c => !(decide (a ≤ c.1) && decide (c.1 < a + n))) t) x = _ := ih
    unfold zeroBytes
    rw [List.filter_cons]
    by_cases hb : a ≤ b ∧ b < a + n
    · have : (!(decide (a ≤ b) && decide (b < a + n))) = false := by simp [hb]
      simp only [this, Bool.false_eq_true, if_false, ih']
      split
      · rfl
      · have : ¬ b = x := by rintro rfl; contradiction
        simp [readByte, this]
    · have : (!(decide (a ≤ b) && decide (b < a + n))) = true := by simp; omega
      simp only [this, if_true, readByte]
      by_cases hx : b = x
      · subst hx; simp [hb]
      · simp only [hx, if_false]
        exact ih'

end Sys2Proof.Machine
end

