-- ==== Sys2Proof/Laws/State.lean ====
section
/-! SUPPORT. One lemma per field per update of State, true by rfl, so that no proof unfolds a record update. -/

namespace Sys2Proof.Machine

section
variable (n : Nat) (s : State)
@[simp] theorem setLen_phase : (setLen n s).phase = s.phase := rfl
@[simp] theorem setLen_dir : (setLen n s).dir = s.dir := rfl
@[simp] theorem setLen_pad : (setLen n s).pad = s.pad := rfl
@[simp] theorem setLen_mode : (setLen n s).mode = s.mode := rfl
@[simp] theorem setLen_klen : (setLen n s).klen = s.klen := rfl
@[simp] theorem setLen_key : (setLen n s).key = s.key := rfl
@[simp] theorem setLen_pos : (setLen n s).pos = s.pos := rfl
@[simp] theorem setLen_len : (setLen n s).len = n := rfl
@[simp] theorem setLen_ws : (setLen n s).ws = s.ws := rfl
@[simp] theorem setLen_es : (setLen n s).es = s.es := rfl
@[simp] theorem setLen_cmdIn : (setLen n s).cmdIn = s.cmdIn := rfl
@[simp] theorem setLen_dataIn : (setLen n s).dataIn = s.dataIn := rfl
@[simp] theorem setLen_hostOut : (setLen n s).hostOut = s.hostOut := rfl
@[simp] theorem setLen_reqIn : (setLen n s).reqIn = s.reqIn := rfl
@[simp] theorem setLen_issued : (setLen n s).issued = s.issued := rfl
@[simp] theorem setLen_replyOut : (setLen n s).replyOut = s.replyOut := rfl
@[simp] theorem setLen_resetIn : (setLen n s).resetIn = s.resetIn := rfl
@[simp] theorem setLen_fresh : (setLen n s).fresh = s.fresh := rfl
end

section
variable (s : State)
@[simp] theorem wrapCursor_phase : (wrapCursor s).phase = s.phase := rfl
@[simp] theorem wrapCursor_dir : (wrapCursor s).dir = s.dir := rfl
@[simp] theorem wrapCursor_pad : (wrapCursor s).pad = s.pad := rfl
@[simp] theorem wrapCursor_mode : (wrapCursor s).mode = s.mode := rfl
@[simp] theorem wrapCursor_klen : (wrapCursor s).klen = s.klen := rfl
@[simp] theorem wrapCursor_key : (wrapCursor s).key = s.key := rfl
@[simp] theorem wrapCursor_pos : (wrapCursor s).pos = 0 := rfl
@[simp] theorem wrapCursor_len : (wrapCursor s).len = 0 := rfl
@[simp] theorem wrapCursor_ws : (wrapCursor s).ws = s.ws := rfl
@[simp] theorem wrapCursor_es : (wrapCursor s).es = s.es := rfl
@[simp] theorem wrapCursor_cmdIn : (wrapCursor s).cmdIn = s.cmdIn := rfl
@[simp] theorem wrapCursor_dataIn : (wrapCursor s).dataIn = s.dataIn := rfl
@[simp] theorem wrapCursor_hostOut : (wrapCursor s).hostOut = s.hostOut := rfl
@[simp] theorem wrapCursor_reqIn : (wrapCursor s).reqIn = s.reqIn := rfl
@[simp] theorem wrapCursor_issued : (wrapCursor s).issued = s.issued := rfl
@[simp] theorem wrapCursor_replyOut : (wrapCursor s).replyOut = s.replyOut := rfl
@[simp] theorem wrapCursor_resetIn : (wrapCursor s).resetIn = s.resetIn := rfl
@[simp] theorem wrapCursor_fresh : (wrapCursor s).fresh = s.fresh := rfl
end

section
variable (P : Params) (s : State)
@[simp] theorem emptyCursor_phase : (emptyCursor P s).phase = s.phase := rfl
@[simp] theorem emptyCursor_dir : (emptyCursor P s).dir = s.dir := rfl
@[simp] theorem emptyCursor_pad : (emptyCursor P s).pad = s.pad := rfl
@[simp] theorem emptyCursor_mode : (emptyCursor P s).mode = s.mode := rfl
@[simp] theorem emptyCursor_klen : (emptyCursor P s).klen = s.klen := rfl
@[simp] theorem emptyCursor_key : (emptyCursor P s).key = s.key := rfl
@[simp] theorem emptyCursor_pos : (emptyCursor P s).pos = 0 := rfl
@[simp] theorem emptyCursor_len : (emptyCursor P s).len = 0 := rfl
@[simp] theorem emptyCursor_ws : (emptyCursor P s).ws = if P.zeroize then zeroBytes s.ws P.base P.cap else s.ws := rfl
@[simp] theorem emptyCursor_es : (emptyCursor P s).es = s.es := rfl
@[simp] theorem emptyCursor_cmdIn : (emptyCursor P s).cmdIn = s.cmdIn := rfl
@[simp] theorem emptyCursor_dataIn : (emptyCursor P s).dataIn = s.dataIn := rfl
@[simp] theorem emptyCursor_hostOut : (emptyCursor P s).hostOut = s.hostOut := rfl
@[simp] theorem emptyCursor_reqIn : (emptyCursor P s).reqIn = s.reqIn := rfl
@[simp] theorem emptyCursor_issued : (emptyCursor P s).issued = s.issued := rfl
@[simp] theorem emptyCursor_replyOut : (emptyCursor P s).replyOut = s.replyOut := rfl
@[simp] theorem emptyCursor_resetIn : (emptyCursor P s).resetIn = s.resetIn := rfl
@[simp] theorem emptyCursor_fresh : (emptyCursor P s).fresh = s.fresh := rfl
end

section
variable (st : Status) (out : Bytes) (s : State)
@[simp] theorem respond_phase : (respond st out s).phase = s.phase := rfl
@[simp] theorem respond_dir : (respond st out s).dir = s.dir := rfl
@[simp] theorem respond_pad : (respond st out s).pad = s.pad := rfl
@[simp] theorem respond_mode : (respond st out s).mode = s.mode := rfl
@[simp] theorem respond_klen : (respond st out s).klen = s.klen := rfl
@[simp] theorem respond_key : (respond st out s).key = s.key := rfl
@[simp] theorem respond_pos : (respond st out s).pos = s.pos := rfl
@[simp] theorem respond_len : (respond st out s).len = s.len := rfl
@[simp] theorem respond_ws : (respond st out s).ws = s.ws := rfl
@[simp] theorem respond_es : (respond st out s).es = s.es := rfl
@[simp] theorem respond_cmdIn : (respond st out s).cmdIn = s.cmdIn := rfl
@[simp] theorem respond_dataIn : (respond st out s).dataIn = s.dataIn := rfl
@[simp] theorem respond_hostOut : (respond st out s).hostOut = s.hostOut ++ reply st out := rfl
@[simp] theorem respond_reqIn : (respond st out s).reqIn = s.reqIn := rfl
@[simp] theorem respond_issued : (respond st out s).issued = s.issued := rfl
@[simp] theorem respond_replyOut : (respond st out s).replyOut = s.replyOut := rfl
@[simp] theorem respond_resetIn : (respond st out s).resetIn = s.resetIn := rfl
@[simp] theorem respond_fresh : (respond st out s).fresh = s.fresh := rfl
end

section
variable (out : Bytes) (s : State)
@[simp] theorem respondOk_phase : (respondOk out s).phase = s.phase := rfl
@[simp] theorem respondOk_dir : (respondOk out s).dir = s.dir := rfl
@[simp] theorem respondOk_pad : (respondOk out s).pad = s.pad := rfl
@[simp] theorem respondOk_mode : (respondOk out s).mode = s.mode := rfl
@[simp] theorem respondOk_klen : (respondOk out s).klen = s.klen := rfl
@[simp] theorem respondOk_key : (respondOk out s).key = s.key := rfl
@[simp] theorem respondOk_pos : (respondOk out s).pos = s.pos := rfl
@[simp] theorem respondOk_len : (respondOk out s).len = s.len := rfl
@[simp] theorem respondOk_ws : (respondOk out s).ws = s.ws := rfl
@[simp] theorem respondOk_es : (respondOk out s).es = s.es := rfl
@[simp] theorem respondOk_cmdIn : (respondOk out s).cmdIn = s.cmdIn := rfl
@[simp] theorem respondOk_dataIn : (respondOk out s).dataIn = s.dataIn := rfl
@[simp] theorem respondOk_hostOut : (respondOk out s).hostOut = s.hostOut ++ reply .ok out := rfl
@[simp] theorem respondOk_reqIn : (respondOk out s).reqIn = s.reqIn := rfl
@[simp] theorem respondOk_issued : (respondOk out s).issued = s.issued := rfl
@[simp] theorem respondOk_replyOut : (respondOk out s).replyOut = s.replyOut := rfl
@[simp] theorem respondOk_resetIn : (respondOk out s).resetIn = s.resetIn := rfl
@[simp] theorem respondOk_fresh : (respondOk out s).fresh = s.fresh := rfl
end

section
variable (st : Status) (s : State)
@[simp] theorem respondError_phase : (respondError st s).phase = s.phase := rfl
@[simp] theorem respondError_dir : (respondError st s).dir = s.dir := rfl
@[simp] theorem respondError_pad : (respondError st s).pad = s.pad := rfl
@[simp] theorem respondError_mode : (respondError st s).mode = s.mode := rfl
@[simp] theorem respondError_klen : (respondError st s).klen = s.klen := rfl
@[simp] theorem respondError_key : (respondError st s).key = s.key := rfl
@[simp] theorem respondError_pos : (respondError st s).pos = s.pos := rfl
@[simp] theorem respondError_len : (respondError st s).len = s.len := rfl
@[simp] theorem respondError_ws : (respondError st s).ws = s.ws := rfl
@[simp] theorem respondError_es : (respondError st s).es = s.es := rfl
@[simp] theorem respondError_cmdIn : (respondError st s).cmdIn = s.cmdIn := rfl
@[simp] theorem respondError_dataIn : (respondError st s).dataIn = s.dataIn := rfl
@[simp] theorem respondError_hostOut : (respondError st s).hostOut = s.hostOut ++ reply st [] := rfl
@[simp] theorem respondError_reqIn : (respondError st s).reqIn = s.reqIn := rfl
@[simp] theorem respondError_issued : (respondError st s).issued = s.issued := rfl
@[simp] theorem respondError_replyOut : (respondError st s).replyOut = s.replyOut := rfl
@[simp] theorem respondError_resetIn : (respondError st s).resetIn = s.resetIn := rfl
@[simp] theorem respondError_fresh : (respondError st s).fresh = s.fresh := rfl
end

section
variable (s : State)
@[simp] theorem respondIllegal_phase : (respondIllegal s).phase = s.phase := rfl
@[simp] theorem respondIllegal_dir : (respondIllegal s).dir = s.dir := rfl
@[simp] theorem respondIllegal_pad : (respondIllegal s).pad = s.pad := rfl
@[simp] theorem respondIllegal_mode : (respondIllegal s).mode = s.mode := rfl
@[simp] theorem respondIllegal_klen : (respondIllegal s).klen = s.klen := rfl
@[simp] theorem respondIllegal_key : (respondIllegal s).key = s.key := rfl
@[simp] theorem respondIllegal_pos : (respondIllegal s).pos = s.pos := rfl
@[simp] theorem respondIllegal_len : (respondIllegal s).len = s.len := rfl
@[simp] theorem respondIllegal_ws : (respondIllegal s).ws = s.ws := rfl
@[simp] theorem respondIllegal_es : (respondIllegal s).es = s.es := rfl
@[simp] theorem respondIllegal_cmdIn : (respondIllegal s).cmdIn = s.cmdIn := rfl
@[simp] theorem respondIllegal_dataIn : (respondIllegal s).dataIn = s.dataIn := rfl
@[simp] theorem respondIllegal_hostOut : (respondIllegal s).hostOut = s.hostOut ++ reply .illegalCommand [] := rfl
@[simp] theorem respondIllegal_reqIn : (respondIllegal s).reqIn = s.reqIn := rfl
@[simp] theorem respondIllegal_issued : (respondIllegal s).issued = s.issued := rfl
@[simp] theorem respondIllegal_replyOut : (respondIllegal s).replyOut = s.replyOut := rfl
@[simp] theorem respondIllegal_resetIn : (respondIllegal s).resetIn = s.resetIn := rfl
@[simp] theorem respondIllegal_fresh : (respondIllegal s).fresh = s.fresh := rfl
end

section
variable (s : State)
@[simp] theorem forgetConfig_phase : (forgetConfig s).phase = s.phase := rfl
@[simp] theorem forgetConfig_dir : (forgetConfig s).dir = Config.freeDir s.fresh := rfl
@[simp] theorem forgetConfig_pad : (forgetConfig s).pad = Config.freePad s.fresh := rfl
@[simp] theorem forgetConfig_mode : (forgetConfig s).mode = s.mode := rfl
@[simp] theorem forgetConfig_klen : (forgetConfig s).klen = Config.freeKlen s.fresh := rfl
@[simp] theorem forgetConfig_key : (forgetConfig s).key = fit 32 (Config.freeKey s.fresh) := rfl
@[simp] theorem forgetConfig_pos : (forgetConfig s).pos = s.pos := rfl
@[simp] theorem forgetConfig_len : (forgetConfig s).len = s.len := rfl
@[simp] theorem forgetConfig_ws : (forgetConfig s).ws = s.ws := rfl
@[simp] theorem forgetConfig_es : (forgetConfig s).es = s.es := rfl
@[simp] theorem forgetConfig_cmdIn : (forgetConfig s).cmdIn = s.cmdIn := rfl
@[simp] theorem forgetConfig_dataIn : (forgetConfig s).dataIn = s.dataIn := rfl
@[simp] theorem forgetConfig_hostOut : (forgetConfig s).hostOut = s.hostOut := rfl
@[simp] theorem forgetConfig_reqIn : (forgetConfig s).reqIn = s.reqIn := rfl
@[simp] theorem forgetConfig_issued : (forgetConfig s).issued = s.issued := rfl
@[simp] theorem forgetConfig_replyOut : (forgetConfig s).replyOut = s.replyOut := rfl
@[simp] theorem forgetConfig_resetIn : (forgetConfig s).resetIn = s.resetIn := rfl
@[simp] theorem forgetConfig_fresh : (forgetConfig s).fresh = s.fresh + 1 := rfl
end

section
variable (P : Params) (st : Status) (s : State)
@[simp] theorem raiseFinish_phase : (raiseFinish P st s).phase = s.phase := rfl
@[simp] theorem raiseFinish_dir : (raiseFinish P st s).dir = s.dir := rfl
@[simp] theorem raiseFinish_pad : (raiseFinish P st s).pad = s.pad := rfl
@[simp] theorem raiseFinish_mode : (raiseFinish P st s).mode = s.mode := rfl
@[simp] theorem raiseFinish_klen : (raiseFinish P st s).klen = s.klen := rfl
@[simp] theorem raiseFinish_key : (raiseFinish P st s).key = s.key := rfl
@[simp] theorem raiseFinish_pos : (raiseFinish P st s).pos = 0 := rfl
@[simp] theorem raiseFinish_len : (raiseFinish P st s).len = 0 := rfl
@[simp] theorem raiseFinish_ws : (raiseFinish P st s).ws = if P.zeroize then zeroBytes s.ws P.base P.cap else s.ws := rfl
@[simp] theorem raiseFinish_es : (raiseFinish P st s).es = s.es := rfl
@[simp] theorem raiseFinish_cmdIn : (raiseFinish P st s).cmdIn = s.cmdIn := rfl
@[simp] theorem raiseFinish_dataIn : (raiseFinish P st s).dataIn = s.dataIn := rfl
@[simp] theorem raiseFinish_hostOut : (raiseFinish P st s).hostOut = s.hostOut ++ reply st [] := rfl
@[simp] theorem raiseFinish_reqIn : (raiseFinish P st s).reqIn = s.reqIn := rfl
@[simp] theorem raiseFinish_issued : (raiseFinish P st s).issued = s.issued := rfl
@[simp] theorem raiseFinish_replyOut : (raiseFinish P st s).replyOut = s.replyOut := rfl
@[simp] theorem raiseFinish_resetIn : (raiseFinish P st s).resetIn = s.resetIn := rfl
@[simp] theorem raiseFinish_fresh : (raiseFinish P st s).fresh = s.fresh := rfl
end

section
variable (P : Params) (st : Status) (s : State)
@[simp] theorem raiseNew_phase : (raiseNew P st s).phase = .unconfigured := rfl
@[simp] theorem raiseNew_dir : (raiseNew P st s).dir = Config.freeDir s.fresh := rfl
@[simp] theorem raiseNew_pad : (raiseNew P st s).pad = Config.freePad s.fresh := rfl
@[simp] theorem raiseNew_mode : (raiseNew P st s).mode = s.mode := rfl
@[simp] theorem raiseNew_klen : (raiseNew P st s).klen = Config.freeKlen s.fresh := rfl
@[simp] theorem raiseNew_key : (raiseNew P st s).key = fit 32 (Config.freeKey s.fresh) := rfl
@[simp] theorem raiseNew_pos : (raiseNew P st s).pos = 0 := rfl
@[simp] theorem raiseNew_len : (raiseNew P st s).len = 0 := rfl
@[simp] theorem raiseNew_ws : (raiseNew P st s).ws = if P.zeroize then zeroBytes s.ws P.base P.cap else s.ws := rfl
@[simp] theorem raiseNew_es : (raiseNew P st s).es = s.es := rfl
@[simp] theorem raiseNew_cmdIn : (raiseNew P st s).cmdIn = s.cmdIn := rfl
@[simp] theorem raiseNew_dataIn : (raiseNew P st s).dataIn = s.dataIn := rfl
@[simp] theorem raiseNew_hostOut : (raiseNew P st s).hostOut = s.hostOut ++ reply st [] := rfl
@[simp] theorem raiseNew_reqIn : (raiseNew P st s).reqIn = s.reqIn := rfl
@[simp] theorem raiseNew_issued : (raiseNew P st s).issued = s.issued := rfl
@[simp] theorem raiseNew_replyOut : (raiseNew P st s).replyOut = s.replyOut := rfl
@[simp] theorem raiseNew_resetIn : (raiseNew P st s).resetIn = s.resetIn := rfl
@[simp] theorem raiseNew_fresh : (raiseNew P st s).fresh = s.fresh + 1 := rfl
end

section
variable (P : Params) (kw : List Word) (s : State)
@[simp] theorem serveSetKey_phase : (serveSetKey P kw s).phase = s.phase := rfl
@[simp] theorem serveSetKey_dir : (serveSetKey P kw s).dir = s.dir := rfl
@[simp] theorem serveSetKey_pad : (serveSetKey P kw s).pad = s.pad := rfl
@[simp] theorem serveSetKey_mode : (serveSetKey P kw s).mode = s.mode := rfl
@[simp] theorem serveSetKey_klen : (serveSetKey P kw s).klen = s.klen := rfl
@[simp] theorem serveSetKey_key : (serveSetKey P kw s).key = s.key := rfl
@[simp] theorem serveSetKey_pos : (serveSetKey P kw s).pos = s.pos := rfl
@[simp] theorem serveSetKey_len : (serveSetKey P kw s).len = s.len := rfl
@[simp] theorem serveSetKey_ws : (serveSetKey P kw s).ws = s.ws := rfl
@[simp] theorem serveSetKey_es : (serveSetKey P kw s).es = P.engine.setKey s.es (unpackWords kw) := rfl
@[simp] theorem serveSetKey_cmdIn : (serveSetKey P kw s).cmdIn = s.cmdIn := rfl
@[simp] theorem serveSetKey_dataIn : (serveSetKey P kw s).dataIn = s.dataIn := rfl
@[simp] theorem serveSetKey_hostOut : (serveSetKey P kw s).hostOut = s.hostOut := rfl
@[simp] theorem serveSetKey_reqIn : (serveSetKey P kw s).reqIn = s.reqIn := rfl
@[simp] theorem serveSetKey_issued : (serveSetKey P kw s).issued = s.issued ++ [.setKey kw] := rfl
@[simp] theorem serveSetKey_replyOut : (serveSetKey P kw s).replyOut = s.replyOut := rfl
@[simp] theorem serveSetKey_resetIn : (serveSetKey P kw s).resetIn = s.resetIn := rfl
@[simp] theorem serveSetKey_fresh : (serveSetKey P kw s).fresh = s.fresh := rfl
end

section
variable (P : Params) (w0 w1 w2 w3 : Word) (s : State)
@[simp] theorem serveSetIv_phase : (serveSetIv P w0 w1 w2 w3 s).phase = s.phase := rfl
@[simp] theorem serveSetIv_dir : (serveSetIv P w0 w1 w2 w3 s).dir = s.dir := rfl
@[simp] theorem serveSetIv_pad : (serveSetIv P w0 w1 w2 w3 s).pad = s.pad := rfl
@[simp] theorem serveSetIv_mode : (serveSetIv P w0 w1 w2 w3 s).mode = s.mode := rfl
@[simp] theorem serveSetIv_klen : (serveSetIv P w0 w1 w2 w3 s).klen = s.klen := rfl
@[simp] theorem serveSetIv_key : (serveSetIv P w0 w1 w2 w3 s).key = s.key := rfl
@[simp] theorem serveSetIv_pos : (serveSetIv P w0 w1 w2 w3 s).pos = s.pos := rfl
@[simp] theorem serveSetIv_len : (serveSetIv P w0 w1 w2 w3 s).len = s.len := rfl
@[simp] theorem serveSetIv_ws : (serveSetIv P w0 w1 w2 w3 s).ws = s.ws := rfl
@[simp] theorem serveSetIv_es : (serveSetIv P w0 w1 w2 w3 s).es = P.engine.setIv s.es (fit 16 (unpackWords [w0, w1, w2, w3])) := rfl
@[simp] theorem serveSetIv_cmdIn : (serveSetIv P w0 w1 w2 w3 s).cmdIn = s.cmdIn := rfl
@[simp] theorem serveSetIv_dataIn : (serveSetIv P w0 w1 w2 w3 s).dataIn = s.dataIn := rfl
@[simp] theorem serveSetIv_hostOut : (serveSetIv P w0 w1 w2 w3 s).hostOut = s.hostOut := rfl
@[simp] theorem serveSetIv_reqIn : (serveSetIv P w0 w1 w2 w3 s).reqIn = s.reqIn := rfl
@[simp] theorem serveSetIv_issued : (serveSetIv P w0 w1 w2 w3 s).issued = s.issued ++ [.setIv w0 w1 w2 w3] := rfl
@[simp] theorem serveSetIv_replyOut : (serveSetIv P w0 w1 w2 w3 s).replyOut = s.replyOut := rfl
@[simp] theorem serveSetIv_resetIn : (serveSetIv P w0 w1 w2 w3 s).resetIn = s.resetIn := rfl
@[simp] theorem serveSetIv_fresh : (serveSetIv P w0 w1 w2 w3 s).fresh = s.fresh := rfl
end

section
variable (P : Params) (k : Bytes) (s : State)
@[simp] theorem requestSetKey_phase : (requestSetKey P k s).phase = s.phase := rfl
@[simp] theorem requestSetKey_dir : (requestSetKey P k s).dir = s.dir := rfl
@[simp] theorem requestSetKey_pad : (requestSetKey P k s).pad = s.pad := rfl
@[simp] theorem requestSetKey_mode : (requestSetKey P k s).mode = s.mode := rfl
@[simp] theorem requestSetKey_klen : (requestSetKey P k s).klen = s.klen := rfl
@[simp] theorem requestSetKey_key : (requestSetKey P k s).key = s.key := rfl
@[simp] theorem requestSetKey_pos : (requestSetKey P k s).pos = s.pos := rfl
@[simp] theorem requestSetKey_len : (requestSetKey P k s).len = s.len := rfl
@[simp] theorem requestSetKey_ws : (requestSetKey P k s).ws = s.ws := rfl
@[simp] theorem requestSetKey_es : (requestSetKey P k s).es = P.engine.setKey s.es (unpackWords (packWords k)) := rfl
@[simp] theorem requestSetKey_cmdIn : (requestSetKey P k s).cmdIn = s.cmdIn := rfl
@[simp] theorem requestSetKey_dataIn : (requestSetKey P k s).dataIn = s.dataIn := rfl
@[simp] theorem requestSetKey_hostOut : (requestSetKey P k s).hostOut = s.hostOut := rfl
@[simp] theorem requestSetKey_reqIn : (requestSetKey P k s).reqIn = s.reqIn := rfl
@[simp] theorem requestSetKey_issued : (requestSetKey P k s).issued = s.issued ++ [.setKey (packWords k)] := rfl
@[simp] theorem requestSetKey_replyOut : (requestSetKey P k s).replyOut = s.replyOut := rfl
@[simp] theorem requestSetKey_resetIn : (requestSetKey P k s).resetIn = s.resetIn := rfl
@[simp] theorem requestSetKey_fresh : (requestSetKey P k s).fresh = s.fresh := rfl
end

section
variable (P : Params) (iv : Bytes) (s : State)
@[simp] theorem requestSetIv_phase : (requestSetIv P iv s).phase = s.phase := rfl
@[simp] theorem requestSetIv_dir : (requestSetIv P iv s).dir = s.dir := rfl
@[simp] theorem requestSetIv_pad : (requestSetIv P iv s).pad = s.pad := rfl
@[simp] theorem requestSetIv_mode : (requestSetIv P iv s).mode = s.mode := rfl
@[simp] theorem requestSetIv_klen : (requestSetIv P iv s).klen = s.klen := rfl
@[simp] theorem requestSetIv_key : (requestSetIv P iv s).key = s.key := rfl
@[simp] theorem requestSetIv_pos : (requestSetIv P iv s).pos = s.pos := rfl
@[simp] theorem requestSetIv_len : (requestSetIv P iv s).len = s.len := rfl
@[simp] theorem requestSetIv_ws : (requestSetIv P iv s).ws = s.ws := rfl
@[simp] theorem requestSetIv_es : (requestSetIv P iv s).es = 
      P.engine.setIv s.es (fit 16 (unpackWords [wordAt iv 0, wordAt iv 1, wordAt iv 2, wordAt iv 3])) := rfl
@[simp] theorem requestSetIv_cmdIn : (requestSetIv P iv s).cmdIn = s.cmdIn := rfl
@[simp] theorem requestSetIv_dataIn : (requestSetIv P iv s).dataIn = s.dataIn := rfl
@[simp] theorem requestSetIv_hostOut : (requestSetIv P iv s).hostOut = s.hostOut := rfl
@[simp] theorem requestSetIv_reqIn : (requestSetIv P iv s).reqIn = s.reqIn := rfl
@[simp] theorem requestSetIv_issued : (requestSetIv P iv s).issued = 
      s.issued ++ [.setIv (wordAt iv 0) (wordAt iv 1) (wordAt iv 2) (wordAt iv 3)] := rfl
@[simp] theorem requestSetIv_replyOut : (requestSetIv P iv s).replyOut = s.replyOut := rfl
@[simp] theorem requestSetIv_resetIn : (requestSetIv P iv s).resetIn = s.resetIn := rfl
@[simp] theorem requestSetIv_fresh : (requestSetIv P iv s).fresh = s.fresh := rfl
end

section
variable (P : Params) (d : Dir) (p : Bool) (k : Bytes) (s : State)
@[simp] theorem installConfig_phase : (installConfig P d p k s).phase = s.phase := rfl
@[simp] theorem installConfig_dir : (installConfig P d p k s).dir = d := rfl
@[simp] theorem installConfig_pad : (installConfig P d p k s).pad = p := rfl
@[simp] theorem installConfig_mode : (installConfig P d p k s).mode = 0 := rfl
@[simp] theorem installConfig_klen : (installConfig P d p k s).klen = BitVec.ofNat 6 k.length := rfl
@[simp] theorem installConfig_key : (installConfig P d p k s).key = writeKeyRegister s.key k := rfl
@[simp] theorem installConfig_pos : (installConfig P d p k s).pos = 0 := rfl
@[simp] theorem installConfig_len : (installConfig P d p k s).len = 0 := rfl
@[simp] theorem installConfig_ws : (installConfig P d p k s).ws = 
      if P.zeroize then zeroBytes s.ws P.base P.cap else s.ws := rfl
@[simp] theorem installConfig_es : (installConfig P d p k s).es = s.es := rfl
@[simp] theorem installConfig_cmdIn : (installConfig P d p k s).cmdIn = s.cmdIn := rfl
@[simp] theorem installConfig_dataIn : (installConfig P d p k s).dataIn = s.dataIn := rfl
@[simp] theorem installConfig_hostOut : (installConfig P d p k s).hostOut = s.hostOut := rfl
@[simp] theorem installConfig_reqIn : (installConfig P d p k s).reqIn = s.reqIn := rfl
@[simp] theorem installConfig_issued : (installConfig P d p k s).issued = s.issued := rfl
@[simp] theorem installConfig_replyOut : (installConfig P d p k s).replyOut = s.replyOut := rfl
@[simp] theorem installConfig_resetIn : (installConfig P d p k s).resetIn = s.resetIn := rfl
@[simp] theorem installConfig_fresh : (installConfig P d p k s).fresh = s.fresh := rfl
end

section
variable (s : State)
@[simp] theorem enterConfigured_phase : (enterConfigured s).phase = .configured := rfl
@[simp] theorem enterConfigured_dir : (enterConfigured s).dir = s.dir := rfl
@[simp] theorem enterConfigured_pad : (enterConfigured s).pad = s.pad := rfl
@[simp] theorem enterConfigured_mode : (enterConfigured s).mode = s.mode := rfl
@[simp] theorem enterConfigured_klen : (enterConfigured s).klen = s.klen := rfl
@[simp] theorem enterConfigured_key : (enterConfigured s).key = s.key := rfl
@[simp] theorem enterConfigured_pos : (enterConfigured s).pos = s.pos := rfl
@[simp] theorem enterConfigured_len : (enterConfigured s).len = s.len := rfl
@[simp] theorem enterConfigured_ws : (enterConfigured s).ws = s.ws := rfl
@[simp] theorem enterConfigured_es : (enterConfigured s).es = s.es := rfl
@[simp] theorem enterConfigured_cmdIn : (enterConfigured s).cmdIn = s.cmdIn := rfl
@[simp] theorem enterConfigured_dataIn : (enterConfigured s).dataIn = s.dataIn := rfl
@[simp] theorem enterConfigured_hostOut : (enterConfigured s).hostOut = s.hostOut := rfl
@[simp] theorem enterConfigured_reqIn : (enterConfigured s).reqIn = s.reqIn := rfl
@[simp] theorem enterConfigured_issued : (enterConfigured s).issued = s.issued := rfl
@[simp] theorem enterConfigured_replyOut : (enterConfigured s).replyOut = s.replyOut := rfl
@[simp] theorem enterConfigured_resetIn : (enterConfigured s).resetIn = s.resetIn := rfl
@[simp] theorem enterConfigured_fresh : (enterConfigured s).fresh = s.fresh := rfl
end

/-! `consume` either advances the cursor or wraps it (R130, R150). -/

section
variable (c : Nat) (s : State)
@[simp] theorem consume_phase : (consume c s).phase = s.phase := by unfold consume; split <;> rfl
@[simp] theorem consume_dir : (consume c s).dir = s.dir := by unfold consume; split <;> rfl
@[simp] theorem consume_pad : (consume c s).pad = s.pad := by unfold consume; split <;> rfl
@[simp] theorem consume_mode : (consume c s).mode = s.mode := by unfold consume; split <;> rfl
@[simp] theorem consume_klen : (consume c s).klen = s.klen := by unfold consume; split <;> rfl
@[simp] theorem consume_key : (consume c s).key = s.key := by unfold consume; split <;> rfl
theorem consume_pos : (consume c s).pos = if c < s.len then s.pos + c else 0 := by
  unfold consume; split <;> rfl
theorem consume_len : (consume c s).len = s.len - c := by
  unfold consume; split <;> simp; omega
@[simp] theorem consume_ws : (consume c s).ws = s.ws := by unfold consume; split <;> rfl
@[simp] theorem consume_es : (consume c s).es = s.es := by unfold consume; split <;> rfl
@[simp] theorem consume_cmdIn : (consume c s).cmdIn = s.cmdIn := by unfold consume; split <;> rfl
@[simp] theorem consume_dataIn : (consume c s).dataIn = s.dataIn := by unfold consume; split <;> rfl
@[simp] theorem consume_hostOut : (consume c s).hostOut = s.hostOut := by unfold consume; split <;> rfl
@[simp] theorem consume_reqIn : (consume c s).reqIn = s.reqIn := by unfold consume; split <;> rfl
@[simp] theorem consume_issued : (consume c s).issued = s.issued := by unfold consume; split <;> rfl
@[simp] theorem consume_replyOut : (consume c s).replyOut = s.replyOut := by unfold consume; split <;> rfl
@[simp] theorem consume_resetIn : (consume c s).resetIn = s.resetIn := by unfold consume; split <;> rfl
@[simp] theorem consume_fresh : (consume c s).fresh = s.fresh := by unfold consume; split <;> rfl
end

end Sys2Proof.Machine
end

