-- ==== Sys2Proof/Laws/Ops.lean ====
section
/-! SUPPORT. The shared operations: what each can answer, said once. -/

namespace Sys2Proof.Machine

/-! ## Sequencing -/

@[simp] theorem andThen_next (s : State) (f : State → Result) : andThen (.next s) f = f s := rfl
@[simp] theorem andThen_fault (r : Fault) (f : State → Result) : andThen (.fault r) f = .fault r := rfl
@[simp] theorem andThen_refused (r : Refusal) (f : State → Result) : andThen (.refused r) f = .refused r := rfl

/-- A sequence answers a next state exactly when both parts do. -/
theorem andThen_eq_next {o : Result} {f : State → Result} {t : State} :
    andThen o f = .next t ↔ ∃ s, o = .next s ∧ f s = .next t := by cases o <;> simp [andThen]

/-! ## Byte sequences -/

theorem fit_val (n : Nat) (l : Bytes) : (fit n l).1 = (l ++ List.replicate n 0).take n := rfl

/-- `fit` is the identity on a sequence of the right length. -/
theorem fit_of_length {n : Nat} {l : Bytes} (h : l.length = n) : (fit n l).1 = l := by
  rw [fit_val, List.take_left' h]

theorem fit_self {n : Nat} (b : BytesN n) : fit n b.1 = b := Subtype.ext (fit_of_length b.2)

theorem down16_le (x : Nat) : down16 x ≤ x := Nat.sub_le _ _
theorem down16_mod (x : Nat) : down16 x % 16 = 0 := by unfold down16; omega
theorem down16_add_mod (x : Nat) : down16 x + x % 16 = x := by unfold down16; omega
theorem down16_of_mod {x : Nat} (h : x % 16 = 0) : down16 x = x := by unfold down16; omega

/-! ## The workspace -/

/-- What `storeBytes` does when it answers a next state (R13). -/
theorem storeBytes_next {P : Params} {a : Nat} {bs : Bytes} {s t : State} (h : storeBytes P a bs s = .next t) :
    (bs = [] ∨ a + bs.length ≤ P.base + P.cap) ∧ t = { s with ws := writeBytes s.ws a bs } := by
  unfold storeBytes at h
  split at h
  · cases h
  · rename_i hn
    injection h with h
    refine ⟨?_, h.symm⟩
    by_cases hb : bs = []
    · exact .inl hb
    · right; by_contra hc; exact hn ⟨hb, by omega⟩

/-- Where `storeBytes` answers a next state. -/
theorem storeBytes_eq {P : Params} {a : Nat} {bs : Bytes} (s : State) (h : a + bs.length ≤ P.base + P.cap) :
    storeBytes P a bs s = .next { s with ws := writeBytes s.ws a bs } := by
  unfold storeBytes
  rw [if_neg (by rintro ⟨-, h'⟩; omega)]

/-! ## Payload -/

/-- `takePayload` hands out the next bytes and consumes them (R90). -/
theorem takePayload_eq {n : Nat} {s : State} (h : n ≤ s.dataIn.length) :
    takePayload n s = some (s.dataIn.take n, { s with dataIn := s.dataIn.drop n }) := by
  unfold takePayload
  rw [if_neg (by omega)]

theorem takePayload_some {n : Nat} {s t : State} {bs : Bytes} (h : takePayload n s = some (bs, t)) :
    n ≤ s.dataIn.length ∧ bs = s.dataIn.take n ∧ t = { s with dataIn := s.dataIn.drop n } := by
  unfold takePayload at h
  split at h
  · cases h
  · simp only [Option.some.injEq, Prod.mk.injEq] at h
    exact ⟨by omega, h.1.symm, h.2.symm⟩

/-! ## Responses -/

/-- An OK response word is the number of output bytes (R85). -/
theorem responseWord_ok {n : Nat} (h : n < 2 ^ 28) : responseWord .ok n = BitVec.ofNat 32 n := by
  apply BitVec.eq_of_toNat_eq
  have h0 : (statusCode .ok).toNat = 0 := rfl
  simp only [responseWord, BitVec.toNat_append, BitVec.toNat_ofNat, h0]
  simp
  omega

/-- The status field of a response word (R85). -/
theorem responseWord_status (st : Status) (n : Nat) : (responseWord st n).extractLsb' 28 4 = statusCode st := by
  apply BitVec.eq_of_toNat_eq
  have h1 := (statusCode st).isLt
  simp only [responseWord, BitVec.extractLsb'_toNat, BitVec.toNat_append, BitVec.toNat_ofNat]
  rw [Nat.shiftLeft_eq, Nat.mul_comm, ← Nat.two_pow_add_eq_or_of_lt (Nat.mod_lt _ (by decide)), Nat.shiftRight_eq_div_pow]
  omega

/-- The response words of two stretches of traffic. -/
@[simp] theorem responseWords_append (a b : List HostItem) :
    responseWords (a ++ b) = responseWords a ++ responseWords b := by
  induction a with
  | nil => rfl
  | cons x a ih => cases x <;> simp [responseWords, ih]

/-- The output bytes of two stretches of traffic. -/
@[simp] theorem outputBytes_append (a b : List HostItem) : outputBytes (a ++ b) = outputBytes a ++ outputBytes b := by
  induction a with
  | nil => rfl
  | cons x a ih => cases x <;> simp [outputBytes, ih]

@[simp] theorem responseWords_map_output (out : Bytes) : responseWords (out.map .output) = [] := by
  induction out with
  | nil => rfl
  | cons b out ih => exact ih

@[simp] theorem outputBytes_map_output (out : Bytes) : outputBytes (out.map .output) = out := by
  induction out with
  | nil => rfl
  | cons b out ih => exact congrArg (b :: ·) ih

/-- A reply puts one word on the response channel (R85). -/
@[simp] theorem responseWords_reply (st : Status) (out : Bytes) :
    responseWords (reply st out) = [responseWord st out.length] := congrArg _ (responseWords_map_output out)

/-- A reply puts its output bytes on the data-out channel (R85). -/
@[simp] theorem outputBytes_reply (st : Status) (out : Bytes) : outputBytes (reply st out) = out :=
  outputBytes_map_output out

/-! ## Operations that touch the whole data region (R37, R60, R220) -/

/-- The end of a message or of a session keeps the canonical form (R60). -/
theorem emptyCursor_wf (P : Params) {s : State} (h : s.ws.wf) : (emptyCursor P s).ws.wf := by
  rw [emptyCursor_ws]
  split
  · exact zeroBytes_wf _ _ h
  · exact h

/-- A store by the CSB keeps the canonical form. -/
theorem storeBytes_wf {P : Params} {a : Nat} {bs : Bytes} {s t : State} (h : storeBytes P a bs s = .next t)
    (hw : s.ws.wf) : t.ws.wf := by
  obtain ⟨-, rfl⟩ := storeBytes_next h
  exact writeBytes_wf _ _ hw

/-- The memory after reset has the canonical form. -/
theorem reset_wf : State.reset.ws.wf := ⟨.nil, by simp [State.reset]⟩

/-- The memory after the reset input was taken has the canonical form. -/
theorem takeReset_wf (P : Params) (s : State) : (takeReset P s).ws.wf := by
  show Memory.wf (if P.zeroize then [] else freeWorkspace P s.fresh)
  split
  · exact reset_wf
  · exact writeBytes_wf _ _ reset_wf

end Sys2Proof.Machine
end

