-- ==== Sys2Proof/Laws/Engine.lean ====
section
/-! SUPPORT. The engine: blocks and lengths of the CBC structure, what a served request can answer, and the
preconditions of R174. -/

namespace Sys2Proof.Machine

/-! ## Blocks -/

theorem xorBlock_val (x y : Block) : (xorBlock x y).1 = List.zipWith (· ^^^ ·) x.1 y.1 :=
  fit_of_length (by simp [x.2, y.2])

/-- Exclusive-or with a block is its own inverse. -/
@[simp] theorem xorBlock_xorBlock (x y : Block) : xorBlock (xorBlock x y) y = x := by
  apply Subtype.ext
  rw [xorBlock_val, xorBlock_val]
  apply List.ext_getElem
  · simp [x.2, y.2]
  · intro i h1 h2
    simp

/-! ## Lengths -/

theorem cbcEncrypt_length (E : Equiv.Perm Block) (m : Nat) (cv : Block) (x : Bytes) :
    (cbcEncrypt E m cv x).2.length = 16 * m := by
  induction m generalizing cv x with
  | zero => rfl
  | succ m ih =>
    rw [cbcEncrypt]
    simp only [List.length_append, ih, (E (xorBlock (fit 16 (x.take 16)) cv)).2]
    omega

theorem cbcDecrypt_length (E : Equiv.Perm Block) (m : Nat) (cv : Block) (x : Bytes) :
    (cbcDecrypt E m cv x).2.length = 16 * m := by
  induction m generalizing cv x with
  | zero => rfl
  | succ m ih =>
    rw [cbcDecrypt]
    simp only [List.length_append, ih, (xorBlock (E.symm (fit 16 (x.take 16))) cv).2]
    omega

theorem cbc_length (E : Equiv.Perm Block) (d : Dir) (m : Nat) (cv : Block) (x : Bytes) :
    (cbc E d m cv x).2.length = 16 * m := by
  cases d
  · exact cbcEncrypt_length E m cv x
  · exact cbcDecrypt_length E m cv x

/-! ## TRANSFORM, served -/

/-- The state after a TRANSFORM request was served (R172). -/
def transformed (P : Params) (d : Dir) (off n : Nat) (s : State) : State :=
  { s with
    es := (P.engine.transformBytes s.es d (readBytes s.ws off n)).1
    ws := writeBytes s.ws off (P.engine.transformBytes s.es d (readBytes s.ws off n)).2
    issued := s.issued ++ [.transform d (BitVec.ofNat 32 off) (BitVec.ofNat 32 n)]
    replyOut := s.replyOut ++ [BitVec.ofNat 32 n] }

/-- What `serveTransform` does when it answers a next state (R172 to R175). -/
theorem serveTransform_next {P : Params} {d : Dir} {off n : Nat} {s t : State}
    (h : serveTransform P d off n s = .next t) :
    n % 16 = 0 ∧ (n = 0 ∨ (P.base ≤ off ∧ off + n ≤ P.base + P.cap)) ∧ t = transformed P d off n s := by
  unfold serveTransform at h
  split at h
  · cases h
  · split at h
    · cases h
    · split at h
      · cases h
      · rename_i h1 h2 h3
        injection h with h
        exact ⟨by omega, by omega, h.symm⟩

/-- Where `serveTransform` answers a next state. -/
theorem serveTransform_eq {P : Params} {d : Dir} {off n : Nat} (s : State) (h1 : n % 16 = 0)
    (h2 : n = 0 ∨ (P.base ≤ off ∧ off + n ≤ P.base + P.cap)) :
    serveTransform P d off n s = .next (transformed P d off n s) := by
  unfold serveTransform
  rw [if_neg (by omega), if_neg (by omega), if_neg (by omega)]
  rfl

section
variable (P : Params) (d : Dir) (off n : Nat) (s : State)

@[simp] theorem transformed_phase : (transformed P d off n s).phase = s.phase := rfl
@[simp] theorem transformed_dir : (transformed P d off n s).dir = s.dir := rfl
@[simp] theorem transformed_pad : (transformed P d off n s).pad = s.pad := rfl
@[simp] theorem transformed_mode : (transformed P d off n s).mode = s.mode := rfl
@[simp] theorem transformed_klen : (transformed P d off n s).klen = s.klen := rfl
@[simp] theorem transformed_key : (transformed P d off n s).key = s.key := rfl
@[simp] theorem transformed_pos : (transformed P d off n s).pos = s.pos := rfl
@[simp] theorem transformed_len : (transformed P d off n s).len = s.len := rfl
@[simp] theorem transformed_cmdIn : (transformed P d off n s).cmdIn = s.cmdIn := rfl
@[simp] theorem transformed_dataIn : (transformed P d off n s).dataIn = s.dataIn := rfl
@[simp] theorem transformed_hostOut : (transformed P d off n s).hostOut = s.hostOut := rfl
@[simp] theorem transformed_reqIn : (transformed P d off n s).reqIn = s.reqIn := rfl
@[simp] theorem transformed_resetIn : (transformed P d off n s).resetIn = s.resetIn := rfl
@[simp] theorem transformed_fresh : (transformed P d off n s).fresh = s.fresh := rfl
@[simp] theorem transformed_es :
    (transformed P d off n s).es = (P.engine.transformBytes s.es d (readBytes s.ws off n)).1 := rfl
@[simp] theorem transformed_ws :
    (transformed P d off n s).ws = writeBytes s.ws off (P.engine.transformBytes s.es d (readBytes s.ws off n)).2 := rfl
@[simp] theorem transformed_issued :
    (transformed P d off n s).issued =
      s.issued ++ [.transform d (BitVec.ofNat 32 off) (BitVec.ofNat 32 n)] := rfl
@[simp] theorem transformed_replyOut :
    (transformed P d off n s).replyOut = s.replyOut ++ [BitVec.ofNat 32 n] := rfl

end

/-- The run holds its transform afterwards (R172). -/
theorem readBytes_transformed {P : Params} (hE : EngineContract P.engine) {d : Dir} {off n : Nat} {s : State}
    (hw : s.ws.wf) (hn : n % 16 = 0) :
    readBytes (transformed P d off n s).ws off n = (P.engine.transformBytes s.es d (readBytes s.ws off n)).2 :=
  readBytes_writeBytes' off _ hw (by rw [hE.length _ _ _ (by simpa using hn)]; simp)

/-- No byte outside the run changes (R66). -/
theorem readByte_transformed_other {P : Params} (hE : EngineContract P.engine) {d : Dir} {off n : Nat} (s : State)
    (hn : n % 16 = 0) {a : Nat} (h : ¬ (off ≤ a ∧ a < off + n)) :
    readByte (transformed P d off n s).ws a = readByte s.ws a :=
  readByte_writeBytes_other _ _ _ (by rwa [hE.length _ _ _ (by simpa using hn), readBytes_length])

/-- A run of no bytes changes nothing but the port's traffic (R176). -/
theorem transformed_zero {P : Params} (hE : EngineContract P.engine) (d : Dir) (off : Nat) (s : State) :
    transformed P d off 0 s =
      { s with issued := s.issued ++ [.transform d (BitVec.ofNat 32 off) 0], replyOut := s.replyOut ++ [0] } := by
  simp [transformed, readBytes, hE.zero]

/-- The canonical form is kept. -/
theorem transformed_wf {P : Params} {d : Dir} {off n : Nat} {s : State} (hw : s.ws.wf) :
    (transformed P d off n s).ws.wf := writeBytes_wf off _ hw

/-! ## The preconditions (R174) -/

/-- What a TRANSFORM request does when it answers a next state: it was within its preconditions. -/
theorem transformAt_next {P : Params} {d : Dir} {off n : Word} {s t : State} (h : transformAt P d off n s = .next t) :
    engineReady s.issued = true ∧ directionKept d s.issued = true ∧
    (n ≠ 0 → (off.toNat - P.base) % 16 = 0) ∧ n.toNat % 16 = 0 ∧
    (n.toNat = 0 ∨ (P.base ≤ off.toNat ∧ off.toNat + n.toNat ≤ P.base + P.cap)) ∧
    t = transformed P d off.toNat n.toNat s := by
  unfold transformAt at h
  split at h
  · cases h
  · split at h
    · cases h
    · split at h
      · cases h
      · rename_i h1 h2 h3
        obtain ⟨h4, h5, h6⟩ := serveTransform_next h
        refine ⟨by simpa using h1, by simpa using h2, fun hn => ?_, h4, h5, h6⟩
        have hn' : n.toNat ≠ 0 := fun hc => hn (BitVec.eq_of_toNat_eq hc)
        by_contra hc
        exact h3 ⟨hn, by omega, hc⟩

/-- Where a TRANSFORM request answers a next state. -/
theorem transformAt_eq {P : Params} {d : Dir} {off n : Word} {s : State} (h1 : engineReady s.issued = true)
    (h2 : directionKept d s.issued = true) (h3 : n ≠ 0 → (off.toNat - P.base) % 16 = 0) (h4 : n.toNat % 16 = 0)
    (h5 : n.toNat = 0 ∨ (P.base ≤ off.toNat ∧ off.toNat + n.toNat ≤ P.base + P.cap)) :
    transformAt P d off n s = .next (transformed P d off.toNat n.toNat s) := by
  unfold transformAt
  rw [if_neg (by simp [h1]), if_neg (by simp [h2]), if_neg (fun h => h.2.2 (h3 h.1)), serveTransform_eq s h4 h5]

/-- Once P1 holds it holds after every further request. -/
theorem engineReady_append {l : List Instr} (h : engineReady l = true) (l' : List Instr) :
    engineReady (l ++ l') = true := by
  unfold engineReady at h ⊢
  obtain ⟨q, hq, hv⟩ := List.any_eq_true.1 h
  rw [List.dropWhile_append]
  split
  · rename_i he
    rw [List.isEmpty_iff.1 he] at hq
    cases hq
  · exact List.any_eq_true.2 ⟨q, List.mem_append_left _ hq, hv⟩

/-- SET_KEY with SET_IV after it meets P1, whatever came before. -/
theorem engineReady_setKey_setIv (l : List Instr) (kw : List Word) (w0 w1 w2 w3 : Word) :
    engineReady (l ++ [.setKey kw, .setIv w0 w1 w2 w3]) = true := by
  unfold engineReady
  rw [List.dropWhile_append]
  split
  · rfl
  · exact List.any_eq_true.2 ⟨_, List.mem_append_right _ (.tail _ (.head _)), rfl⟩

/-- A request that is no SET_KEY and no TRANSFORM of another direction keeps P4. -/
theorem directionKept_append_singleton {d : Dir} {l : List Instr} {q : Instr} (hk : isSetKey q = false)
    (hd : tagIs d q = true) (h : directionKept d l = true) : directionKept d (l ++ [q]) = true := by
  unfold directionKept at h ⊢
  simp [hk, hd] at h ⊢
  exact h

/-- After SET_KEY every direction is open (R174 P4). -/
theorem directionKept_setKey (d : Dir) (l : List Instr) (kw : List Word) :
    directionKept d (l ++ [.setKey kw]) = true := by
  unfold directionKept
  simp [isSetKey]

end Sys2Proof.Machine
end

