-- ==== Sys2Proof/Laws/Finish.lean ====
section
/-! SUPPORT. The shared operations of FINISH in an encrypt session: what each can answer, said once. -/

namespace Sys2Proof.Machine

/-- The state after the pad write (R57(b), R140). -/
def padded (P : Params) (s : State) : State :=
  { s with
    ws := writeBytes s.ws (dataAddr P (s.pos + s.len)) (padBytes (padLength s.len))
    len := s.len + padLength s.len }

@[simp] theorem padBytes_length (p : Nat) : (padBytes p).length = p := List.length_replicate ..

/-- Staged bytes and pad fill whole blocks: exactly one when less than a block is staged (R141). -/
theorem len_add_padLength_mod (l : Nat) : (l + padLength l) % 16 = 0 := by unfold padLength; omega

theorem len_add_padLength {l : Nat} (h : l < 16) : l + padLength l = 16 := by unfold padLength; omega

/-- What the pad write does when it answers a next state. -/
theorem writePad_next {P : Params} {s t : State} (h : writePad P s = .next t) : t = padded P s := by
  unfold writePad at h
  obtain ⟨u, h1, h2⟩ := andThen_eq_next.1 h
  obtain ⟨-, rfl⟩ := storeBytes_next h1
  injection h2 with h2
  exact h2.symm

/-- Where the pad write answers a next state. -/
theorem writePad_eq {P : Params} (s : State) (h : s.pos + s.len + padLength s.len ≤ P.cap) :
    writePad P s = .next (padded P s) := by
  unfold writePad
  rw [storeBytes_eq s (by rw [padBytes_length]; unfold dataAddr; omega)]
  rfl

/-- The state after the end of an encrypt message: transformed, output, emptied (R140). -/
def flushed (P : Params) (s : State) : State :=
  respondOk (readBytes (transformed P .enc (dataAddr P s.pos) s.len s).ws (dataAddr P s.pos) s.len)
    (emptyCursor P (transformed P .enc (dataAddr P s.pos) s.len s))

/-- What the end of an encrypt message does when it answers a next state. -/
theorem flushEncrypt_next {P : Params} {s t : State} (h : flushEncrypt P s = .next t) :
    s.len % 16 = 0 ∧ (s.len = 0 ∨ s.pos + s.len ≤ P.cap) ∧ t = flushed P s := by
  unfold flushEncrypt at h
  obtain ⟨u, h1, h2⟩ := andThen_eq_next.1 h
  obtain ⟨hm, hr, rfl⟩ := serveTransform_next h1
  injection h2 with h2
  exact ⟨hm, by unfold dataAddr at hr; omega, h2.symm⟩

/-- Where the end of an encrypt message answers a next state. -/
theorem flushEncrypt_eq {P : Params} (s : State) (hm : s.len % 16 = 0) (h : s.len = 0 ∨ s.pos + s.len ≤ P.cap) :
    flushEncrypt P s = .next (flushed P s) := by
  unfold flushEncrypt
  rw [serveTransform_eq s hm (by unfold dataAddr; omega)]
  rfl

end Sys2Proof.Machine
end

