-- ==== Sys2Proof/Laws/PerInstr.lean ====
section
/-! SUPPORT. A fact about every instruction as syntax, constructor by constructor: its words are one header word and as
many argument words as that header asks for (30_encoding.md R81, R92). -/

namespace Sys2Proof.Laws.HeaderCount

/-- The encoding is a header word followed by exactly the argument words its header announces. -/
def Statement (i : Instr) : Prop :=
  i.wellFormed = true → ∃ w t, encode i = w :: t ∧ t.length = engineArgWords w

/-- A word with zeros in bits 31:30 announces no argument words. -/
theorem engineArgWords_of_host {w : Word} (h : w.extractLsb' 30 2 = 0) : engineArgWords w = 0 := by
  simp [engineArgWords, h]

theorem new (dir : Dir) (pad ivp : Bool) (ivlen klen : BitVec 8) :
    Statement (.new dir pad ivp ivlen klen) := by
  intro _
  refine ⟨_, _, rfl, (engineArgWords_of_host ?_).symm⟩
  apply BitVec.eq_of_getLsbD_eq
  intro k hk
  obtain rfl | rfl : k = 0 ∨ k = 1 := by omega
  all_goals simp only [BitVec.getLsbD_extractLsb', BitVec.getLsbD_append]
  all_goals simp

theorem process (n : BitVec 24) : Statement (.process n) := by
  intro _
  refine ⟨_, _, rfl, (engineArgWords_of_host ?_).symm⟩
  apply BitVec.eq_of_getLsbD_eq
  intro k hk
  obtain rfl | rfl : k = 0 ∨ k = 1 := by omega
  all_goals simp only [BitVec.getLsbD_extractLsb', BitVec.getLsbD_append]
  all_goals simp

theorem finish : Statement .finish := fun _ => ⟨_, _, rfl, by decide⟩

theorem setKey (kw : List Word) : Statement (.setKey kw) := by
  intro h
  have hl : kw.length = 4 ∨ kw.length = 6 ∨ kw.length = 8 := by simpa [Instr.wellFormed, or_assoc] using h
  exact ⟨_, _, rfl, by rcases hl with h | h | h <;> rw [h] <;> decide⟩

theorem setIv (w0 w1 w2 w3 : Word) : Statement (.setIv w0 w1 w2 w3) := fun _ => ⟨_, _, rfl, by simp [engineArgWords]⟩

theorem transform (d : Dir) (off nbytes : Word) : Statement (.transform d off nbytes) := fun _ =>
  ⟨_, _, rfl, by cases d <;> simp [engineArgWords, dirBit]⟩

end Sys2Proof.Laws.HeaderCount
end

