-- ==== Sys2Proof/Laws/Stream.lean ====
section
/-! SUPPORT. The loop of PROCESS: what one pass can do, the induction over the loop packaged once, and the registers
no pass touches. -/

namespace Sys2Proof.Machine

/-- The state after the stage of one pass. -/
def staged (P : Params) (w : Nat) (chunk : Bytes) (s : State) : State :=
  { s with ws := writeBytes s.ws (dataAddr P (s.pos + s.len)) (chunk.take w), len := s.len + w }

/-- What a stage does when it answers a next state. -/
theorem stage_next {P : Params} {w : Nat} {chunk : Bytes} {s t : State} (h : stage P w chunk s = .next t) :
    t = staged P w chunk s := by
  unfold stage at h
  obtain ⟨u, h1, h2⟩ := andThen_eq_next.1 h
  obtain ⟨-, rfl⟩ := storeBytes_next h1
  injection h2 with h2
  exact h2.symm

/-- Where a stage answers a next state. -/
theorem stage_eq {P : Params} {w : Nat} {chunk : Bytes} (s : State) (h : s.pos + s.len + (chunk.take w).length ≤ P.cap) :
    stage P w chunk s = .next (staged P w chunk s) := by
  unfold stage
  rw [storeBytes_eq s (by unfold dataAddr; omega)]
  rfl

/-- The TRANSFORM length of a pass is a multiple of 16, whatever the state (R54). -/
theorem requestLength_mod (plen : Nat) (rest : Bytes) (s : State) : requestLength plen rest s % 16 = 0 := by
  unfold requestLength
  split <;> exact down16_mod _

/-- The TRANSFORM length of a pass is within the staged bytes (R55). -/
theorem requestLength_le (plen : Nat) (rest : Bytes) (s : State) : requestLength plen rest s ≤ s.len := by
  unfold requestLength
  split
  · exact (down16_le _).trans (Nat.sub_le _ _)
  · exact down16_le _

/-- The TRANSFORM length of one pass from state `s` with the chunk bytes `chunk` left. -/
def passLength (P : Params) (plen : Nat) (chunk : Bytes) (s : State) : Nat :=
  requestLength plen (chunk.drop (stageCount P chunk.length s)) (staged P (stageCount P chunk.length s) chunk s)

/-- The state after one pass, before the cursor moves. -/
def passed (P : Params) (d : Dir) (plen : Nat) (chunk : Bytes) (s : State) : State :=
  transformed P d (dataAddr P s.pos) (passLength P plen chunk s) (staged P (stageCount P chunk.length s) chunk s)

/-- What one pass does when the command answers a next state: its TRANSFORM is inside the engine's contract, and the
rest of the command goes on with the pass's output and the cursor moved. -/
theorem pass_next {P : Params} {d : Dir} {plen : Nat} {chunk : Bytes} {s t : State} {k : Bytes → State → Result}
    (h : pass P d plen chunk s k = .next t) :
    (passLength P plen chunk s = 0 ∨ dataAddr P s.pos + passLength P plen chunk s ≤ P.base + P.cap) ∧
    k (readBytes (passed P d plen chunk s).ws (dataAddr P s.pos) (passLength P plen chunk s))
      (consume (passLength P plen chunk s) (passed P d plen chunk s)) = .next t := by
  unfold pass at h
  obtain ⟨u, h1, h2⟩ := andThen_eq_next.1 h
  obtain rfl := stage_next h1
  obtain ⟨v, h3, h4⟩ := andThen_eq_next.1 h2
  obtain ⟨-, h5, rfl⟩ := serveTransform_next h3
  refine ⟨?_, h4⟩
  rcases h5 with h5 | h5
  · exact .inl h5
  · exact .inr h5.2

/-- Where one pass goes on. -/
theorem pass_eq {P : Params} {d : Dir} {plen : Nat} {chunk : Bytes} {s : State} (k : Bytes → State → Result)
    (h : s.pos + s.len ≤ P.cap) :
    pass P d plen chunk s k =
      k (readBytes (passed P d plen chunk s).ws (dataAddr P s.pos) (passLength P plen chunk s))
        (consume (passLength P plen chunk s) (passed P d plen chunk s)) := by
  have hw : s.pos + s.len + (chunk.take (stageCount P chunk.length s)).length ≤ P.cap := by
    simp only [List.length_take, stageCount]
    omega
  have hl : passLength P plen chunk s ≤ s.len + stageCount P chunk.length s := requestLength_le _ _ _
  have hc : stageCount P chunk.length s ≤ P.cap - (s.pos + s.len) := Nat.min_le_right _ _
  have hm : passLength P plen chunk s % 16 = 0 := requestLength_mod _ _ _
  unfold pass
  dsimp only
  rw [stage_eq s hw, andThen_next]
  rw [show (staged P (stageCount P chunk.length s) chunk s).pos = s.pos from rfl]
  rw [show requestLength plen (chunk.drop (stageCount P chunk.length s))
    (staged P (stageCount P chunk.length s) chunk s) = passLength P plen chunk s from rfl]
  rw [serveTransform_eq _ hm (.inr ⟨by unfold dataAddr; omega, by unfold dataAddr; omega⟩)]
  rfl

/-- The induction over the loop, once: a property of states that every pass keeps and that the answer keeps holds of
the state the loop answers with. -/
theorem processLoop_induct {P : Params} {d : Dir} {plen : Nat} (R : Bytes → Bytes → State → Prop) {Q : State → Prop}
    (hstep : ∀ chunk out s, chunk ≠ [] → R chunk out s →
      (passLength P plen chunk s = 0 ∨ dataAddr P s.pos + passLength P plen chunk s ≤ P.base + P.cap) →
      R (chunk.drop (stageCount P chunk.length s))
        (out ++ readBytes (passed P d plen chunk s).ws (dataAddr P s.pos) (passLength P plen chunk s))
        (consume (passLength P plen chunk s) (passed P d plen chunk s)))
    (hend : ∀ out s, R [] out s → Q (respondOk out s))
    {fuel : Nat} {chunk out : Bytes} {s t : State} (hR : R chunk out s)
    (h : processLoop P d plen fuel chunk out s = .next t) : Q t := by
  induction fuel generalizing chunk out s with
  | zero =>
    cases chunk with
    | nil => injection h with h; exact h ▸ hend _ _ hR
    | cons b chunk => cases h
  | succ fuel ih =>
    cases chunk with
    | nil => injection h with h; exact h ▸ hend _ _ hR
    | cons b chunk =>
      obtain ⟨h1, h2⟩ := pass_next h
      exact ih (hstep _ _ _ (by simp) hR h1) h2

/-- `SameConfig` composes. -/
theorem SameConfig.trans {s t u : State} (h : SameConfig s t) (h' : SameConfig t u) : SameConfig s u where
  phase := h'.phase.trans h.phase
  dir := h'.dir.trans h.dir
  pad := h'.pad.trans h.pad
  mode := h'.mode.trans h.mode
  klen := h'.klen.trans h.klen
  key := h'.key.trans h.key
  engineKey := h'.engineKey.trans h.engineKey
  cmdIn := h'.cmdIn.trans h.cmdIn
  reqIn := h'.reqIn.trans h.reqIn
  resetIn := h'.resetIn.trans h.resetIn
  fresh := h'.fresh.trans h.fresh

/-- A served TRANSFORM keeps the configuration. -/
theorem transformed_sameConfig {P : Params} (hE : EngineContract P.engine) (d : Dir) (off : Nat) {n : Nat} (s : State)
    (hn : n % 16 = 0) : SameConfig s (transformed P d off n s) :=
  ⟨rfl, rfl, rfl, rfl, rfl, rfl, hE.transform_key _ _ _ (by simpa using hn), rfl, rfl, rfl, rfl⟩

/-- A stage keeps the configuration. -/
theorem staged_sameConfig (P : Params) (w : Nat) (chunk : Bytes) (s : State) : SameConfig s (staged P w chunk s) :=
  ⟨rfl, rfl, rfl, rfl, rfl, rfl, rfl, rfl, rfl, rfl, rfl⟩

/-- A cursor move keeps the configuration. -/
theorem consume_sameConfig (c : Nat) (s : State) : SameConfig s (consume c s) := by
  constructor <;> simp

/-- One pass keeps the configuration. -/
theorem passed_sameConfig {P : Params} (hE : EngineContract P.engine) (d : Dir) (plen : Nat) (chunk : Bytes)
    (s : State) : SameConfig s (passed P d plen chunk s) :=
  (staged_sameConfig P _ chunk s).trans (transformed_sameConfig hE d _ _ (requestLength_mod _ _ _))

end Sys2Proof.Machine
end

