-- ==== Sys2Proof/Tests/Slice0.lean ====
section
/-! SUPPORT. Tests: the checks of WellFormed, words written out from 30_encoding.md R95 and 95_test_vectors.md section
2.1, single commands of 95_test_vectors.md sections 1 to 3 with the XOR engine of R183, and, for every statement with
hypotheses, a state and operands that meet them together (`witness_<statement>`). -/

namespace Sys2Proof.Tests

open Sys2Proof Sys2Proof.Machine

/-! ## Helpers -/

/-- A machine with the XOR engine (R181, R183), without zeroization. -/
def xorParams (cap base : Nat) (h : cap % 16 = 0 ∧ 16 ≤ cap ∧ base + cap ≤ 2 ^ 32) : Params where
  cap := cap
  base := base
  zeroize := false
  engine := cbcEngine xorCipher
  cap_mod := h.1
  cap_ge := h.2.1
  top_le := h.2.2

/-- `CAP = 64`, `BASE = 0`: what 95_test_vectors.md uses unless a vector says otherwise. -/
def p64 : Params := xorParams 64 0 (by decide)

/-- `CAP = 32`, `BASE = 256`: vector E3. -/
def p32 : Params := xorParams 32 256 (by decide)

/-- `CAP = 16`: vectors E2 and D5. -/
def p16 : Params := xorParams 16 0 (by decide)

/-- `CAP = 16` with zeroization. -/
def p16z : Params := { p16 with zeroize := true }

/-- The same with the engine that copies: the least one known to meet the contract (`copyEngine_contract`). -/
def p16c : Params := { p16 with engine := copyEngine }

/-- `CAP = 32` with the engine that copies. -/
def p32c : Params := { p32 with engine := copyEngine }

/-- `n` bytes counting up from `a`. -/
def count (a n : Nat) : Bytes := (List.range n).map fun i => BitVec.ofNat 8 (a + i)

/-- `K` of 95_test_vectors.md. -/
def vecK : Bytes := count 0 16

/-- `IVF` of 95_test_vectors.md. -/
def vecIvf : Bytes := count 0xf0 16

/-- What NEW sends to the engine for a key and an IV of 0x00 bytes. -/
def newRequests : List Instr := [.setKey [0, 0, 0, 0], .setIv 0 0 0 0]

/-- A session as NEW leaves it after reset, with the key of sixteen 0x00 bytes, `len` staged bytes (all 0x00) and
data-in bytes. -/
def session (dir : Dir) (pad : Bool) (len : Nat) (data : Bytes) : State :=
  { State.reset with
    phase := .configured, dir := dir, pad := pad, klen := 16, len := len, dataIn := data, issued := newRequests }

/-- The same with key `K`, a chaining value, a cursor position and staged bytes of one's own. -/
def sessionOf (P : Params) (dir : Dir) (pad : Bool) (cv : Bytes) (pos : Nat) (staged data : Bytes) : State :=
  { session dir pad staged.length data with
    key := fit 32 vecK
    pos := pos
    ws := writeBytes [] (P.base + pos) staged
    es := { key := vecK, cv := fit 16 cv, work := [] } }

/-- Whether a result is a next state. -/
def isNext : Result → Bool
  | .next _ => true
  | .fault _ => false
  | .refused _ => false

/-- The next state of a result. -/
def after : Result → State
  | .next s => s
  | .fault _ => State.reset
  | .refused _ => State.reset

theorem next_of_isNext {o : Result} (h : isNext o = true) : o = .next (after o) := by
  cases o with
  | next => rfl
  | fault => cases h
  | refused => cases h

/-- Response words and output bytes of a result that started with none. -/
def answer (o : Result) : List Word × Bytes := (responseWords (after o).hostOut, outputBytes (after o).hostOut)

/-- The cursor of a result. -/
def cursor (o : Result) : Nat × Nat := ((after o).pos, (after o).len)

/-! ## WellFormed: an ill-formed term for each check -/

theorem test_new_without_iv_has_no_iv_length : (Instr.new .enc true false 16 16).wellFormed = false := by decide
theorem test_set_key_of_five_words : (Instr.setKey [1, 2, 3, 4, 5]).wellFormed = false := by decide
theorem test_well_formed_terms :
    (Instr.new .enc true false 0 16).wellFormed = true ∧ (Instr.new .enc true true 255 255).wellFormed = true ∧
    (Instr.setKey [1, 2, 3, 4, 5, 6]).wellFormed = true := by decide

/-! ## Decoding: words from R95 and 95_test_vectors.md section 2.1 -/

theorem test_decode_new :
    decodeCommand 0x11801010 = .ok (.new .enc true true 16 16) ∧
    decodeCommand 0x12801020 = .ok (.new .dec false true 16 32) ∧
    decodeCommand 0x10000018 = .ok (.new .enc false false 0 24) ∧
    decodeCommand 0x1380FFFF = .ok (.new .dec true true 255 255) := by decide
theorem test_decode_process :
    decodeCommand 0x20FFFFFF = .ok (.process 16777215) ∧ decodeCommand 0x20000005 = .ok (.process 5) := by decide
theorem test_decode_finish : decodeCommand 0x30000000 = .ok .finish := by decide
theorem test_decode_illegal :
    decodeCommand 0x00000000 = .error .opcode ∧ decodeCommand 0x40000000 = .error .opcode ∧
    decodeCommand 0xFFFFFFFF = .error .opcode ∧ decodeCommand 0x14000010 = .error .modeTag ∧
    decodeCommand 0x10010010 = .error .reservedBits ∧ decodeCommand 0x10001010 = .error .ivLengthWithoutIv ∧
    decodeCommand 0x21000000 = .error .reservedBits ∧ decodeCommand 0x30000001 = .error .reservedBits := by decide
theorem test_decode_set_key :
    decodeRequest [0x40000004, 0x00010203, 0x04050607, 0x08090a0b, 0x0c0d0e0f] =
      .ok (.setKey [0x00010203, 0x04050607, 0x08090a0b, 0x0c0d0e0f], []) := by decide
theorem test_decode_set_iv :
    decodeRequest [0x80000000, 0xf0f1f2f3, 0xf4f5f6f7, 0xf8f9fafb, 0xfcfdfeff] =
      .ok (.setIv 0xf0f1f2f3 0xf4f5f6f7 0xf8f9fafb 0xfcfdfeff, []) := by decide
theorem test_decode_transform :
    decodeRequest [0xC0000001, 0x10, 0x10] = .ok (.transform .dec 16 16, []) ∧
    decodeRequest [0xC0000000, 0x100, 0x20] = .ok (.transform .enc 256 32, []) := by decide
theorem test_decode_request_rejects :
    decodeRequest [0x40000005, 1, 2, 3, 4, 5] = .error .keyWordCount ∧
    decodeRequest [0x80000001, 1, 2, 3, 4] = .error .enginePortReservedBits ∧
    decodeRequest [0xC0000002, 0, 0] = .error .enginePortReservedBits ∧
    decodeRequest [0x00000000] = .error .enginePortOpcode ∧
    decodeRequest [0xC0000000, 0] = .error .argumentWordsMissing := by decide
theorem test_encode_words :
    encode (.new .dec true true 16 16) = [0x13801010] ∧ encode (.process 5) = [0x20000005] ∧
    encode .finish = [0x30000000] ∧
    encode (.setKey [0x00010203, 0x04050607, 0x08090a0b, 0x0c0d0e0f]) =
      [0x40000004, 0x00010203, 0x04050607, 0x08090a0b, 0x0c0d0e0f] ∧
    encode (.setIv 0 0 0 0) = [0x80000000, 0, 0, 0, 0] ∧ encode (.transform .dec 16 16) = [0xC0000001, 16, 16] := by
  decide
theorem test_bytes_most_significant_first :
    decodeBytes [0x13, 0x80, 0x10, 0x20] = .ok (.new .dec true true 16 32, []) := by decide
theorem test_table_words :
    decodeTableWord 32 0x20000005 = some (.process 5) ∧
    decodeTableWord 96 0x0000002000000100C0000001 = some (.transform .dec 0x100 0x20) ∧
    decodeTableWord 32 0x40000004 = some (.setKey [0, 0, 0, 0]) ∧ decodeTableWord 32 0x40000000 = none := by decide
theorem test_placed_word_is_fetched :
    fetch (State.reset.withFetchWord 32 0x20000002) =
      .run (.process 2) { State.reset with dataIn := [0, 0] } := by decide
theorem test_placed_request_is_fetched :
    fetch (State.reset.withFetchWord 32 0x40000004) = .run (.setKey [0, 0, 0, 0]) State.reset := by decide

/-! ## Single commands -/

/-- Vector S3: a key of 15 bytes. -/
theorem test_new_invalid_key :
    answer (newAt p64 .enc true false 0 15 (session .enc true 0 (count 0 15))) = ([0x10000000], []) ∧
    (after (newAt p64 .enc true false 0 15 (session .enc true 0 (count 0 15)))).phase = .unconfigured := by
  decide +kernel

/-- Vector V1: 24-byte key without IV, and the requests of program P2's `NEW.E key=K iv=IVF pad=1`. -/
theorem test_new_installs :
    (after (newAt p64 .enc false false 0 24 (session .dec true 3 (count 0 24)))).klen = 24 ∧
    cursor (newAt p64 .enc false false 0 24 (session .dec true 3 (count 0 24))) = (0, 0) ∧
    (after (newAt p64 .enc true true 16 16 (session .dec true 3 (vecK ++ vecIvf)))).issued =
      newRequests ++ [.setKey [0x00010203, 0x04050607, 0x08090a0b, 0x0c0d0e0f],
       .setIv 0xf0f1f2f3 0xf4f5f6f7 0xf8f9fafb 0xfcfdfeff] := by
  decide +kernel

/-- Vector E1: the 1-byte chunk `2f` after fifteen staged bytes outputs sixteen; R85: the response word goes first. -/
theorem test_process_encrypt_completes_a_block :
    answer (processAt p64 1 (sessionOf p64 .enc false vecIvf 0 (count 0x20 15) [0x2f])) =
      ([0x10], count 0xd0 16) ∧
    (after (processAt p64 1 (sessionOf p64 .enc false vecIvf 0 (count 0x20 15) [0x2f]))).hostOut.head? =
      some (.response 0x10) ∧
    cursor (processAt p64 1 (sessionOf p64 .enc false vecIvf 0 (count 0x20 15) [0x2f])) = (0, 0) := by
  decide +kernel

/-- Vector D3, third command: `POS + LEN = CAP`; the first pass stages nothing, the second withholds a block. -/
theorem test_process_decrypt_with_a_full_buffer :
    let s := sessionOf p32 .dec true (count 0xd0 16) 16 (count 0xe0 4 ++ List.replicate 12 0xdc) (count 0xd0 16)
    answer (processAt p32 16 s) = ([0x10], count 0x30 4 ++ List.replicate 12 0x0c) ∧
    cursor (processAt p32 16 s) = (0, 16) ∧
    (after (processAt p32 16 s)).issued = newRequests ++ [.transform .dec 272 16, .transform .dec 256 0] := by
  decide +kernel

/-- Vector E3, its FIN (`p = 1`), and R60: with ZEROIZE nothing is left in the workspace afterwards. -/
theorem test_finish_encrypt_pads :
    answer (finishAt p32 (sessionOf p32 .enc true (count 0xe0 16) 0 (count 0x40 15) [])) =
      ([0x10], count 0xa0 15 ++ [0xe1]) ∧
    (after (finishAt p16z (sessionOf p16z .enc true vecIvf 0 (count 1 9) []))).ws = [] := by
  decide +kernel

/-- Vector Q0: `p = 4` good, `p = 4` with a mismatch in the first pad byte, `p = 0`. -/
theorem test_finish_decrypt_checks :
    answer (finishAt p64 (sessionOf p64 .dec true vecIvf 0 (count 0xb1 11 ++ [0xbc, 0xf4, 0xf4, 0xf4, 0xf4]) [])) =
      ([0x0c], count 0x41 12) ∧
    answer (finishAt p64 (sessionOf p64 .dec true vecIvf 0 (count 0xb1 11 ++ [0xbc, 0xf5, 0xf4, 0xf4, 0xf4]) [])) =
      ([0x40000000], []) ∧
    answer (finishAt p64 (sessionOf p64 .dec true vecIvf 0 (List.replicate 16 0xf0) [])) = ([0x40000000], []) := by
  decide +kernel

/-- R170 and section 2.1: the key bytes of `set_key(K)`. -/
theorem test_set_key :
    (after (setKeyAt p64 [0x00010203, 0x04050607, 0x08090a0b, 0x0c0d0e0f] State.reset)).es.key = vecK := by decide +kernel

/-- R171 and section 2.1: the chaining value after `set_iv(IVF)`. -/
theorem test_set_iv :
    (after (setIvAt p64 0xf0f1f2f3 0xf4f5f6f7 0xf8f9fafb 0xfcfdfeff State.reset)).es.cv.1 = vecIvf := by decide +kernel

/-- Program P1: the engine turns the padded block of "hello" into the output and ends in it as chaining value. -/
theorem test_transform :
    let o := transformAt p64 .enc 0 16
      (sessionOf p64 .enc true (List.replicate 16 0) 0 ([0x68, 0x65, 0x6c, 0x6c, 0x6f] ++ List.replicate 11 0x0b) [])
    let y : Bytes := [0x68, 0x64, 0x6e, 0x6f, 0x6b, 0x0e, 0x0d, 0x0c, 0x03, 0x02, 0x01, 0x00, 0x07, 0x06, 0x05, 0x04]
    readBytes (after o).ws 0 16 = y ∧ (after o).es.cv.1 = y ∧ (after o).replyOut = [16] := by
  decide +kernel

/-- R174 P1, P4: no SET_IV after the first SET_KEY; a second direction under one key; another key opens it again. -/
theorem test_transform_preconditions :
    engineReady [.setIv 0 0 0 0, .setKey [0, 0, 0, 0]] = false ∧ engineReady newRequests = true ∧
    directionKept .dec (newRequests ++ [.transform .enc 0 16]) = false ∧
    directionKept .dec (newRequests ++ [.transform .enc 0 16, .setKey [0, 0, 0, 0], .setIv 0 0 0 0]) = true := by decide

/-! ## Witnesses: the hypotheses of every statement, met -/

/-- The invariants of R23 hold in a session with as many bytes staged as its direction and padding allow. -/
theorem session_inv (P : Params) (dir : Dir) (pad : Bool) (len : Nat) (data : Bytes)
    (h : len ≤ if dir = .dec ∧ pad = true then 16 else 15) : Inv P (session dir pad len data) := by
  have hc := P.cap_ge
  have hb : len ≤ 16 := by split at h <;> omega
  refine ⟨⟨h, ?_, fun _ => rfl, rfl, ?_⟩, ⟨reset_wf, fun c hc => absurd hc (by simp [session, State.reset])⟩, ⟨rfl, fun _ => .inl rfl⟩⟩
  · show 0 + len ≤ P.cap
    omega
  · show 0 + 16 ≤ P.cap
    omega

/-- A chunk of one byte in a session with a few bytes staged completes in one pass, in every machine. -/
theorem process_one_completes (P : Params) (dir : Dir) (pad : Bool) (len : Nat) (b : Byte) (h : len ≤ 15) :
    ∃ t, processAt P 1 (session dir pad len [b]) = .next t := by
  have hc := P.cap_ge
  have key : ∀ d plen, ∃ t, processLoop P d plen 2 [b] [] (session dir pad len []) = .next t := by
    intro d plen
    have hw : stageCount P 1 (session dir pad len []) = 1 := by
      simp only [stageCount, session, State.reset]
      omega
    unfold processLoop
    rw [pass_eq _ (by simp only [session, State.reset]; omega)]
    simp only [List.length_singleton, hw, List.drop_one, List.tail_cons]
    exact ⟨_, rfl⟩
  cases dir
  · exact key .enc 0
  · exact key .dec (reserve pad (len + 1))

theorem exec_one_completes (dir : Dir) (pad : Bool) (len : Nat) (b : Byte) (h : len ≤ 15) :
    ∃ t, exec (.process 1) (session dir pad len [b]) = .next t := process_one_completes Config.params dir pad len b h

theorem witness_DecodeOfEncode :
    (Instr.new .dec false false 0 24).wellFormed = true ∧ (Instr.new .enc true true 255 16).wellFormed = true ∧
    (Instr.setKey [1, 2, 3, 4, 5, 6, 7, 8]).wellFormed = true := by decide

theorem witness_EncodeOfDecodedCommand : decodeCommand 0x1380FFFF = .ok (.new .dec true true 255 255) := by decide

theorem witness_EncodeOfDecodedRequest :
    decodeRequest [0xC0000001, 0x10, 0x20, 7] = .ok (.transform .dec 0x10 0x20, [7]) := by decide

/-- Section 2.1 gives the word of the key bytes 00 01 02 03. -/
theorem witness_WordsAndBytesAgree : (count 0 8).length % 4 = 0 ∧ be32 0 1 2 3 = 0x00010203 := by decide

theorem witness_StepRunsTheDecodedCommand :
    let s := { session .enc true 0 [1, 2] with cmdIn := [0x20000002, 0x30000000] }
    s.resetIn = false ∧ s.reqIn = [] ∧ s.cmdIn = 0x20000002 :: [0x30000000] ∧
    decodeCommand 0x20000002 = .ok (.process 2) ∧ payloadBytes (.process 2) ≤ s.dataIn.length := by decide

theorem witness_StepServesTheDecodedRequest :
    let s := { State.reset with reqIn := [0x80000000, 1, 2, 3, 4, 0xC0000000] }
    s.resetIn = false ∧ decodeRequest s.reqIn = .ok (.setIv 1 2 3 4, [0xC0000000]) := by decide

/-- One word for each of the reasons, at the ends of each field. -/
theorem witness_IllegalWordIsAnswered :
    ∀ w ∈ [0x00000000#32, 0x40000000#32, 0xFFFFFFFF#32, 0x14000010#32, 0x18000010#32, 0x10010010#32, 0x10400010#32,
        0x10000110#32, 0x10008010#32, 0x21000000#32, 0x28000000#32, 0x30000001#32, 0x38000000#32],
      let s := { State.reset with cmdIn := [w] }
      s.resetIn = false ∧ s.reqIn = [] ∧ s.cmdIn = w :: [] ∧
      (let op := (w.extractLsb' 28 4).toNat
       op = 0 ∨ 4 ≤ op ∨
        (op = 1 ∧ (w.extractLsb' 26 2 ≠ 0 ∨ w.extractLsb' 16 7 ≠ 0 ∨
          (w.extractLsb' 23 1 = 0 ∧ w.extractLsb' 8 8 ≠ 0))) ∨
        (op = 2 ∧ w.extractLsb' 24 4 ≠ 0) ∨ (op = 3 ∧ w.extractLsb' 0 28 ≠ 0)) := by
  simp only [List.forall_mem_cons]
  refine ⟨?_, ?_, ?_, ?_, ?_, ?_, ?_, ?_, ?_, ?_, ?_, ?_, ?_, by simp⟩ <;> decide

theorem witness_IdleAndWaitingKeepTheState :
    (State.reset.resetIn = false ∧ State.reset.reqIn = [] ∧ State.reset.cmdIn = []) ∧
    (let s := { State.reset with cmdIn := [0x20000002], dataIn := [1] }
     s.resetIn = false ∧ s.reqIn = [] ∧ s.cmdIn = 0x20000002 :: [] ∧ decodeCommand 0x20000002 = .ok (.process 2) ∧
     s.dataIn.length < payloadBytes (.process 2)) ∧
    (let s := { State.reset with reqIn := [0x80000000, 1, 2, 3] }
     s.resetIn = false ∧ decodeRequest s.reqIn = .error .argumentWordsMissing) := by decide

theorem witness_ResetInputEndsTheSession : { session .enc true 5 [1] with resetIn := true }.resetIn = true := rfl

theorem witness_NewChecksKeyThenIv :
    (15#8).toNat + (17#8).toNat ≤ (session .enc true 0 (count 0 32)).dataIn.length := by decide

theorem witness_NewInstallsTheSession :
    ∀ k ∈ [16#8, 24#8, 32#8], ∀ ivp : Bool,
      let il : BitVec 8 := if ivp then 16 else 0
      (Instr.new .enc true ivp il k).wellFormed = true ∧
      k.toNat + il.toNat ≤ (session .dec false 3 (count 0 48)).dataIn.length ∧
      (k = 16 ∨ k = 24 ∨ k = 32) ∧ (ivp = true → il = 16) := by decide

theorem witness_FailedNewEndsTheSession :
    ((15#8).toNat + (0#8).toNat ≤ (session .enc true 0 (count 0 15)).dataIn.length ∧
      (15#8 ≠ 16 ∧ 15#8 ≠ 24 ∧ 15#8 ≠ 32)) ∧
    ((16#8).toNat + (15#8).toNat ≤ (session .enc true 0 (count 0 31)).dataIn.length ∧ (true = true ∧ 15#8 ≠ 16)) := by
  decide

theorem witness_NewTouchesTheWorkspaceOnlyToZeroize :
    (∃ t, exec (.new .enc true true 16 16) (session .dec true 16 (count 0 32)) = .next t) ∧
    ∃ t, exec (.new .enc true false 0 0) State.reset = .next t := ⟨⟨_, rfl⟩, ⟨_, rfl⟩⟩

theorem witness_WithoutSessionIllegal :
    let s := { State.reset with dataIn := [1, 2] }
    s.phase = .unconfigured ∧ (2#24).toNat ≤ s.dataIn.length := by decide

theorem witness_EmptyChunkChangesNothing : (session .dec true 16 []).phase = .configured := rfl

/-- The last byte of a block, and an empty chunk. -/
theorem witness_ProcessEncryptResult :
    let s := session .enc false 15 [0x2f]
    Inv Config.params s ∧ s.phase = .configured ∧ s.dir = .enc ∧ (1#24).toNat ≤ s.dataIn.length ∧
    (0#24).toNat ≤ s.dataIn.length :=
  ⟨session_inv _ _ _ _ _ (by decide), rfl, rfl, by decide, by decide⟩

/-- An empty chunk; the last byte of a block; one byte more than a withheld block; all with and without padding. -/
theorem witness_ProcessDecryptResult :
    ∀ c ∈ [(true, 16, 0#24), (true, 16, 1#24), (true, 15, 1#24), (false, 15, 1#24), (false, 0, 0#24)],
      let s := session .dec c.1 c.2.1 [0xe0]
      Inv Config.params s ∧ s.phase = .configured ∧ s.dir = .dec ∧ c.2.2.toNat ≤ s.dataIn.length := by
  intro c hc
  refine ⟨session_inv _ _ _ _ _ ?_, rfl, rfl, ?_⟩ <;> revert c <;> decide

theorem witness_ProcessStoresOnlyWhereItStages :
    CursorInv Config.params (session .enc true 5 [7]) ∧ ∃ t, exec (.process 1) (session .enc true 5 [7]) = .next t :=
  ⟨(session_inv _ _ _ _ _ (by decide)).cursor, exec_one_completes _ _ _ _ (by decide)⟩

/-- FINISH of an encrypt session completes in every machine. -/
theorem finish_encrypt_completes (P : Params) (len : Nat) (h : len ≤ 15) :
    ∃ t, finishAt P (session .enc true len []) = .next t := by
  have hc := P.cap_ge
  have hl := len_add_padLength (show len < 16 by omega)
  refine ⟨flushed P (padded P (session .enc true len [])), ?_⟩
  show andThen (writePad P (session .enc true len [])) (flushEncrypt P) = _
  rw [writePad_eq _ (show 0 + len + padLength len ≤ P.cap by omega), andThen_next,
    flushEncrypt_eq _ (show (len + padLength len) % 16 = 0 by omega)
      (.inr (show 0 + (len + padLength len) ≤ P.cap by omega))]

theorem exec_finish_completes (len : Nat) (h : len ≤ 15) : ∃ t, exec .finish (session .enc true len []) = .next t :=
  finish_encrypt_completes Config.params len h

theorem witness_ProcessAndFinishKeepConfiguration :
    (∃ t, exec (.process 1) (session .dec true 5 [7]) = .next t) ∧
    ∃ t, exec .finish (session .enc true 5 []) = .next t :=
  ⟨exec_one_completes _ _ _ _ (by decide), exec_finish_completes _ (by decide)⟩

theorem witness_FinishEncryptPadsToOneBlock :
    ∀ len ∈ [0, 1, 15],
      let s := session .enc true len []
      Inv Config.params s ∧ s.phase = .configured ∧ s.dir = .enc ∧ s.pad = true := by
  intro len h
  refine ⟨session_inv _ _ _ _ _ ?_, rfl, rfl, rfl⟩
  revert len
  decide

theorem witness_FinishEncryptUnpaddedEmpty :
    let s := session .enc false 0 []
    s.phase = .configured ∧ s.dir = .enc ∧ s.pad = false ∧ s.len = 0 := by decide

theorem witness_FinishUnalignedInput :
    ∀ s ∈ [session .enc false 3 [], session .dec false 15 [], session .dec true 1 []],
      s.phase = .configured ∧ (s.dir = .dec ∨ s.pad = false) ∧ s.len % 16 ≠ 0 := by decide

theorem witness_FinishDecryptEmpty :
    let s := session .dec true 0 []
    s.phase = .configured ∧ s.dir = .dec ∧ s.len = 0 := by decide

theorem witness_FinishDecryptChecksPadding :
    let s := session .dec true 16 []
    Inv Config.params s ∧ s.phase = .configured ∧ s.dir = .dec ∧ s.pad = true ∧ s.len = 16 :=
  ⟨session_inv _ _ _ _ _ (by decide), rfl, rfl, rfl, rfl⟩

/-- The padding good and not good, at the ends of its range (vector Q0 gives the verdicts). -/
theorem witness_PadCheckIsPkcs7 :
    (∀ p ∈ [1, 16], (count 0x41 (16 - p) ++ padBytes p).length % 16 = 0 ∧ count 0x41 (16 - p) ++ padBytes p ≠ [] ∧
      padOk (count 0x41 (16 - p) ++ padBytes p) = true) ∧
    ∀ b ∈ [0#8, 17#8, 255#8], padOk (List.replicate 16 b) = false := by decide

theorem witness_PadGeneratorTable : 0 < 16 ∧ 15 < 16 := by decide

/-- With a pad, and with the answer UnalignedInput. -/
theorem witness_FinishStoresOnlyStagedAndPad :
    ((session .enc true 5 []).phase = .configured ∧ ∃ t, exec .finish (session .enc true 5 []) = .next t) ∧
    (session .dec true 1 []).phase = .configured ∧ ∃ t, exec .finish (session .dec true 1 []) = .next t :=
  ⟨⟨rfl, exec_finish_completes _ (by decide)⟩, rfl, ⟨_, rfl⟩⟩

theorem witness_ZeroizeClearsTheWorkspace :
    p16z.zeroize = true ∧
    (∃ t, finishAt p16z (sessionOf p16z .enc true vecIvf 0 (count 1 9) []) = .next t) ∧
    ∃ t, newAt p16z .enc true false 0 15 (sessionOf p16z .dec true vecIvf 0 (count 1 9) (count 0 15)) = .next t :=
  ⟨rfl, ⟨_, next_of_isNext (by decide +kernel)⟩, ⟨_, next_of_isNext (by decide +kernel)⟩⟩

theorem witness_SetKeyInstallsTheKey :
    (Instr.setKey [1, 2, 3, 4]).wellFormed = true ∧ (Instr.setKey [1, 2, 3, 4, 5, 6]).wellFormed = true ∧
    (Instr.setKey [1, 2, 3, 4, 5, 6, 7, 8]).wellFormed = true := by decide

/-- BASE as an offset word stands for BASE, in every machine. -/
theorem base_offset (P : Params) : (BitVec.ofNat 32 P.base).toNat = P.base := by
  have h1 := P.top_le
  have h2 := P.cap_ge
  rw [BitVec.toNat_ofNat, Nat.mod_eq_of_lt (by omega)]

/-- The data region's first block, in every machine, whatever BASE and CAP are. -/
theorem witness_TransformReplacesTheRun :
    let off := BitVec.ofNat 32 Config.params.base
    let s := session .enc true 0 []
    s.ws.wf ∧ engineReady s.issued = true ∧ directionKept .enc s.issued = true ∧ (16#32).toNat % 16 = 0 ∧
    Config.params.base ≤ off.toNat ∧ (off.toNat - Config.params.base) % 16 = 0 ∧
    off.toNat + (16#32).toNat ≤ Config.params.base + Config.params.cap := by
  have h2 := Config.params.cap_ge
  have h := base_offset Config.params
  refine ⟨reset_wf, by decide, by decide, rfl, h.ge, by rw [h, Nat.sub_self], ?_⟩
  rw [h]
  show _ + 16 ≤ _
  omega

/-- Each stop, in the machine with BASE = 256 and `BASE + CAP = 288`: nothing issued; the other direction; one byte above
BASE; a length of 15; the last byte below BASE; the last block with 32 bytes. -/
theorem witness_TransformStopsOutsideTheContract :
    engineReady [] = false ∧
    (engineReady newRequests = true ∧ directionKept .dec (newRequests ++ [.transform .enc 256 16]) = false) ∧
    directionKept .enc newRequests = true ∧
    (16#32 ≠ 0 ∧ p32.base ≤ (257#32).toNat ∧ ((257#32).toNat - p32.base) % 16 ≠ 0) ∧
    (15#32 ≠ 0 ∧ ((256#32).toNat - p32.base) % 16 = 0 ∧ (15#32).toNat % 16 ≠ 0) ∧
    (16#32 ≠ 0 ∧ (255#32).toNat < p32.base ∧ (16#32).toNat % 16 = 0) ∧
    (32#32 ≠ 0 ∧ ((272#32).toNat - p32.base) % 16 = 0 ∧ (32#32).toNat % 16 = 0 ∧ p32.base ≤ (272#32).toNat ∧
      p32.base + p32.cap < (272#32).toNat + (32#32).toNat) := by decide

theorem witness_ZeroLengthTransformChangesNothing :
    engineReady (session .dec true 0 []).issued = true ∧ directionKept .dec (session .dec true 0 []).issued = true := by
  decide

/-- The engine after `set_key(K)` and `set_iv(IVF)`. -/
def engineK : EngineState := { key := vecK, cv := fit 16 vecIvf, work := [] }

theorem witness_EngineRunsCanBeCut :
    ∃ es1 es2 y1 y2, (count 0x20 16).length % 16 = 0 ∧ (count 0x30 32).length % 16 = 0 ∧
      (cbcEngine xorCipher).transformBytes engineK .enc (count 0x20 16) = (es1, y1) ∧
      (cbcEngine xorCipher).transformBytes es1 .enc (count 0x30 32) = (es2, y2) :=
  ⟨_, _, _, _, by decide, by decide, rfl, rfl⟩

theorem witness_EngineDecryptUndoesEncrypt :
    ∃ es1 y, (count 0x20 16).length % 16 = 0 ∧ engineK.key = engineK.key ∧ engineK.cv = engineK.cv ∧
      (cbcEngine xorCipher).transformBytes engineK .enc (count 0x20 16) = (es1, y) :=
  ⟨_, _, by decide, rfl, rfl, rfl⟩

/-- A session with a PROCESS of one byte on the channels. -/
def waiting (dir : Dir) (pad : Bool) (len : Nat) : State :=
  { session dir pad len [7] with cmdIn := [0x20000001#32] }

theorem waiting_inv (dir : Dir) (pad : Bool) (len : Nat) (h : len ≤ if dir = .dec ∧ pad = true then 16 else 15) :
    Inv Config.params (waiting dir pad len) :=
  have hi := session_inv Config.params dir pad len [7] h
  ⟨⟨hi.1.1, hi.1.2, hi.1.3, hi.1.4, hi.1.5⟩, ⟨hi.2.1, hi.2.2⟩, ⟨hi.3.1, hi.3.2⟩⟩

theorem waiting_steps (dir : Dir) (pad : Bool) (len : Nat) (h : len ≤ 15) :
    Inv Config.params (waiting dir pad len) ∧ (waiting dir pad len).resetIn = false ∧
    (waiting dir pad len).reqIn = [] ∧ ∃ t, step (waiting dir pad len) = .next t := by
  exact ⟨waiting_inv _ _ _ (by split <;> omega), rfl, rfl, exec_one_completes dir pad len 7 h⟩

theorem waiting_engineInv (dir : Dir) (pad : Bool) (len : Nat) : EngineInv (waiting dir pad len) :=
  ⟨rfl, fun _ => rfl, fun _ => rfl, fun _ => rfl⟩

theorem witness_RequestsStayInTheEngineContract :
    let s := waiting .dec true 5
    Inv Config.params s ∧ EngineInv s ∧ s.resetIn = false ∧ ∃ t, step s = .next t :=
  have h := waiting_steps .dec true 5 (by decide)
  ⟨h.1, waiting_engineInv _ _ _, h.2.1, h.2.2.2⟩

theorem witness_ProcessAndFinishSendOnlyTransforms :
    (∃ t, exec (.process 1) (session .enc false 15 [7]) = .next t) ∧
    ∃ t, exec .finish (session .enc true 5 []) = .next t :=
  ⟨exec_one_completes _ _ _ _ (by decide), exec_finish_completes _ (by decide)⟩

theorem witness_OneResponsePerCommand :
    Inv Config.params (session .enc false 15 [7]) ∧ (Instr.process 1).onEnginePort = false ∧
    ∃ t, exec (.process 1) (session .enc false 15 [7]) = .next t :=
  ⟨session_inv _ _ _ _ _ (by decide), rfl, exec_one_completes _ _ _ _ (by decide)⟩

theorem witness_OnlyNewWritesPhase :
    (∃ t, exec (.new .enc true false 0 16) (session .dec true 0 (count 0 16)) = .next t) ∧
    (∃ t, exec (.new .enc true false 0 15) (session .dec true 0 (count 0 15)) = .next t) ∧
    ∃ t, exec .finish State.reset = .next t := ⟨⟨_, rfl⟩, ⟨_, rfl⟩, ⟨_, rfl⟩⟩

theorem witness_StepKeepsTheInvariants :
    let s := waiting .enc true 15
    Inv Config.params s ∧ ∃ t, step s = .next t :=
  ⟨(waiting_steps .enc true 15 (by decide)).1, (waiting_steps .enc true 15 (by decide)).2.2.2⟩

theorem witness_StepKeepsTheEngineKey :
    let s := waiting .enc true 15
    Inv Config.params s ∧ EngineInv s ∧ ∃ t, step s = .next t :=
  ⟨(waiting_steps .enc true 15 (by decide)).1, waiting_engineInv _ _ _,
    (waiting_steps .enc true 15 (by decide)).2.2.2⟩

theorem witness_PaddedDecryptWithholds :
    (let s := session .dec true 5 [7]
     Inv Config.params s ∧ s.phase = .configured ∧ s.dir = .dec ∧ s.pad = true ∧ (1#24 ≠ 0 ∨ 1 ≤ s.len) ∧
     ∃ t, exec (.process 1) s = .next t) ∧
    (let s := session .dec true 16 []
     Inv Config.params s ∧ s.phase = .configured ∧ s.dir = .dec ∧ s.pad = true ∧ (0#24 ≠ 0 ∨ 1 ≤ s.len) ∧
     ∃ t, exec (.process 0) s = .next t) :=
  ⟨⟨session_inv _ _ _ _ _ (by decide), rfl, rfl, rfl, by decide, exec_one_completes _ _ _ _ (by decide)⟩,
    ⟨session_inv _ _ _ _ _ (by decide), rfl, rfl, rfl, by decide, ⟨_, rfl⟩⟩⟩

theorem witness_EveryStepCompletes : Inv Config.params (waiting .dec true 16) ∧ (waiting .dec true 16).reqIn = [] :=
  ⟨waiting_inv _ _ _ (by decide), rfl⟩

theorem witness_ChunkingIsInvisible :
    let s := session .dec true 16 [1, 2, 3]
    Inv Config.params s ∧ s.phase = .configured ∧ (3#24).toNat = (1#24).toNat + (2#24).toNat ∧
    (3#24).toNat ≤ s.dataIn.length := ⟨session_inv _ _ _ _ _ (by decide), rfl, by decide, by decide⟩

/-- Two machines of different CAP and BASE with the same engine, the same five bytes staged at different offsets. -/
theorem witness_HostResultsIgnoreGeometry :
    let s := sessionOf p16c .enc true vecIvf 0 (count 1 5) [1, 2]
    let t := sessionOf p32c .enc true vecIvf 16 (count 1 5) [1, 2]
    EngineContract p16c.engine ∧ p16c.engine = p32c.engine ∧ Inv p16c s ∧ Inv p32c t ∧ SameSession p16c p32c s t ∧
    (∃ s', newAt p16c .enc true false 0 2 s = .next s') ∧ (∃ s', processAt p16c 2 s = .next s') ∧
    ∃ s', finishAt p16c s = .next s' :=
  ⟨copyEngine_contract, rfl,
    ⟨⟨by decide, by decide, by decide, by decide, by decide⟩, ⟨by decide +kernel, by decide +kernel⟩,
      ⟨rfl, fun _ => .inl rfl⟩⟩,
    ⟨⟨by decide, by decide, by decide, by decide, by decide⟩, ⟨by decide +kernel, by decide +kernel⟩,
      ⟨rfl, fun _ => .inl rfl⟩⟩,
    ⟨by decide +kernel, by decide +kernel⟩, ⟨_, next_of_isNext (by decide +kernel)⟩,
    ⟨_, next_of_isNext (by decide +kernel)⟩, ⟨_, next_of_isNext (by decide +kernel)⟩⟩

theorem witness_PaddedMessageEncrypts :
    EngineContract p32c.engine ∧ Inv p32c (session .enc true 0 []) ∧ MessageStart .enc true (session .enc true 0 []) :=
  ⟨copyEngine_contract, session_inv _ _ _ _ _ (by decide), rfl, rfl, rfl, rfl⟩

/-- A message of twenty bytes in three chunks and its pad, decrypted in two. -/
theorem witness_DecryptOfEncryptIsTheMessage :
    let s := sessionOf p32c .enc true vecIvf 0 [] []
    let s' := sessionOf p32c .dec true vecIvf 0 [] []
    let ct : Bytes := count 0x20 20 ++ List.replicate 12 0x0c
    EngineContract p32c.engine ∧ Inv p32c s ∧ MessageStart .enc true s ∧ Inv p32c s' ∧ MessageStart .dec true s' ∧
    s'.es.key = s.es.key ∧ s'.es.cv = s.es.cv ∧
    ∃ t, message p32c [count 0x20 7, [], count 0x27 13] s = .next t ∧
      outputBytes t.hostOut = outputBytes s.hostOut ++ [ct.take 5, ct.drop 5].flatten := by
  have hi : ∀ d, Inv p32c (sessionOf p32c d true vecIvf 0 [] []) := fun d =>
    ⟨⟨Nat.zero_le _, Nat.zero_le _, fun _ => rfl, rfl, show 0 + 16 ≤ 32 by decide⟩,
      ⟨reset_wf, fun c hc => absurd hc (by simp [sessionOf, session, State.reset])⟩, ⟨rfl, fun _ => .inl rfl⟩⟩
  exact ⟨copyEngine_contract, hi _, ⟨rfl, rfl, rfl, rfl⟩, hi _, ⟨rfl, rfl, rfl, rfl⟩, rfl, rfl, _,
    next_of_isNext (by decide +kernel), by decide +kernel⟩

/-- Program P2's message with the XOR engine, in two chunks: the whole output of the vector. -/
theorem test_message_encrypts :
    (answer (message p64 [count 0x20 7, count 0x27 13] (sessionOf p64 .enc true vecIvf 0 [] []))).2 =
      count 0xd0 16 ++ count 0xe0 4 ++ List.replicate 12 0xdc := by decide +kernel

theorem witness_FinishStartsANewMessage :
    (session .enc true 5 []).phase = .configured ∧ (∃ t, exec .finish (session .enc true 5 []) = .next t) ∧
    ∃ t, exec .finish (session .dec true 1 []) = .next t ∧ t.issued = (session .dec true 1 []).issued :=
  ⟨rfl, exec_finish_completes _ (by decide), ⟨_, rfl, rfl⟩⟩

end Sys2Proof.Tests
end

section
/-! SUPPORT. A session as the host knows it: the host's view of the state and the staged bytes. What the operations of
PROCESS and FINISH do to the two, with no word about CAP, BASE, ZEROIZE or POS (00_scope.md R9). -/

namespace Sys2Proof.Machine

/-! ## The host's view under the shared operations -/

/-- What the host knows of a session (R9, R34): its view and the staged bytes. -/
def hostSession (P : Params) (s : State) : State × Bytes := (hostView s, stagedBytes P s)

theorem sameSession_iff {P Q : Params} {s t : State} :
    SameSession P Q s t ↔ hostSession P s = hostSession Q t := Prod.mk_inj.symm

@[simp] theorem stagedBytes_length (P : Params) (s : State) : (stagedBytes P s).length = s.len :=
  readBytes_length ..

theorem stagedBytes_of_len_zero (P : Params) {s : State} (h : s.len = 0) : stagedBytes P s = [] :=
  List.length_eq_zero_iff.1 (by rw [stagedBytes_length, h])

theorem dataAddr_add (P : Params) (x y : Nat) : dataAddr P (x + y) = dataAddr P x + y := (Nat.add_assoc ..).symm

section
variable (s : State)
@[simp] theorem hostView_phase : (hostView s).phase = s.phase := rfl
@[simp] theorem hostView_dir : (hostView s).dir = s.dir := rfl
@[simp] theorem hostView_pad : (hostView s).pad = s.pad := rfl
@[simp] theorem hostView_es : (hostView s).es = s.es := rfl
@[simp] theorem hostView_hostOut : (hostView s).hostOut = s.hostOut := rfl
end

@[simp] theorem hostView_respond (st : Status) (out : Bytes) (s : State) :
    hostView (respond st out s) = respond st out (hostView s) := rfl

@[simp] theorem hostView_consume (c : Nat) (s : State) :
    hostView (consume c s) = setLen (s.len - c) (hostView s) := by
  unfold consume
  split
  · rfl
  · rw [show s.len - c = 0 by omega]
    rfl

/-! ## Bytes put after the staged ones: the stage of a pass and the pad write (R57) -/

/-- The state with `bs` stored right after the staged bytes. -/
def appended (P : Params) (bs : Bytes) (s : State) : State :=
  { s with ws := writeBytes s.ws (dataAddr P (s.pos + s.len)) bs, len := s.len + bs.length }

/-- A stage appends the chunk bytes it takes. -/
theorem staged_eq_appended (P : Params) {w : Nat} {chunk : Bytes} (s : State) (h : w ≤ chunk.length) :
    staged P w chunk s = appended P (chunk.take w) s := by simp [staged, appended, h]

/-- The pad write appends the pad. -/
theorem padded_eq_appended (P : Params) (s : State) : padded P s = appended P (padBytes (padLength s.len)) s := by
  simp [padded, appended]

theorem stagedBytes_appended {P : Params} (bs : Bytes) {s : State} (hw : s.ws.wf) :
    stagedBytes P (appended P bs s) = stagedBytes P s ++ bs := by
  simp only [stagedBytes, appended]
  rw [readBytes_append, ← dataAddr_add, readBytes_writeBytes _ _ hw,
    readBytes_writeBytes_disjoint _ _ _ (.inl (dataAddr_add ..).ge)]

/-! ## Staged bytes transformed (R55, R130, R150) -/

/-- A TRANSFORM of the first `c` staged bytes: the engine's state and the run afterwards. -/
theorem transformed_staged {P : Params} (hE : EngineContract P.engine) (d : Dir) {c : Nat} {s : State}
    (hw : s.ws.wf) (hm : c % 16 = 0) (hc : c ≤ s.len) :
    ((transformed P d (dataAddr P s.pos) c s).es,
      readBytes (transformed P d (dataAddr P s.pos) c s).ws (dataAddr P s.pos) c) =
      P.engine.transformBytes s.es d ((stagedBytes P s).take c) := by
  rw [readBytes_transformed hE hw hm, transformed_es, stagedBytes, readBytes_take _ _ _ _ hc]

/-- The staged bytes beyond those that were transformed and consumed. -/
theorem stagedBytes_consume_transformed {P : Params} (hE : EngineContract P.engine) (d : Dir) {c : Nat} (s : State)
    (hm : c % 16 = 0) :
    stagedBytes P (consume c (transformed P d (dataAddr P s.pos) c s)) = (stagedBytes P s).drop c := by
  by_cases hc : c < s.len
  · rw [stagedBytes, stagedBytes, readBytes_drop _ _ _ _ hc.le, ← dataAddr_add, consume_pos, consume_len]
    simp only [transformed_len, transformed_pos, hc, if_true, consume_ws]
    refine readBytes_congr fun i _ => readByte_transformed_other hE s hm ?_
    rw [dataAddr_add]
    omega
  · rw [stagedBytes_of_len_zero, List.drop_of_length_le]
    · simpa using hc
    · rw [consume_len, transformed_len]
      omega

/-! ## What the workspace keeps -/

/-- The staged bytes lie in the data region, from a whole block on, and the workspace has its form. -/
structure Placed (P : Params) (s : State) : Prop where
  fit : s.pos + s.len ≤ P.cap
  aligned : s.pos % 16 = 0
  workspace : WorkspaceInv P s

/-- The invariants less INV1: what every pass of the loop of PROCESS keeps (R132). -/
structure LoopInv (P : Params) (s : State) : Prop extends Placed P s where
  wrap : s.len = 0 → s.pos = 0
  room : s.pos + 16 ≤ P.cap

theorem Inv.loopInv {P : Params} {s : State} (h : Inv P s) : LoopInv P s :=
  ⟨⟨h.cursor.fit, h.cursor.aligned, h.workspace⟩, h.cursor.wrap, h.cursor.room⟩

/-- Where INV1 holds and the configuration is legal, the invariants hold again. -/
theorem LoopInv.inv {P : Params} {s : State} (h : LoopInv P s) (hb : s.len ≤ lenBound s) (hc : ConfigInv s) :
    Inv P s := ⟨⟨hb, h.fit, h.wrap, h.aligned, h.room⟩, h.workspace, hc⟩

/-- A run of writes in the data region keeps the form of the workspace. -/
theorem writeBytes_workspaceInv {P : Params} {x : Nat} {bs : Bytes} {s t : State} (h : WorkspaceInv P s)
    (hx : x + bs.length ≤ P.cap) (ht : t.ws = writeBytes s.ws (dataAddr P x) bs) : WorkspaceInv P t where
  wf := ht ▸ writeBytes_wf _ _ h.wf
  region c hc := by
    rw [ht] at hc
    rcases mem_writeBytes hc with hc | hc
    · simp only [dataAddr] at hc
      omega
    · exact h.region c hc

theorem appended_placed {P : Params} {bs : Bytes} {s : State} (h : Placed P s)
    (hb : s.pos + s.len + bs.length ≤ P.cap) : Placed P (appended P bs s) where
  fit := by simpa [appended, Nat.add_assoc] using hb
  aligned := h.aligned
  workspace := writeBytes_workspaceInv h.workspace hb rfl

theorem transformed_placed {P : Params} (hE : EngineContract P.engine) (d : Dir) {c : Nat} {s : State}
    (h : Placed P s) (hm : c % 16 = 0) (hc : c ≤ s.len) : Placed P (transformed P d (dataAddr P s.pos) c s) where
  fit := h.fit
  aligned := h.aligned
  workspace := writeBytes_workspaceInv h.workspace
    (by have := h.fit; rw [hE.length _ _ _ (by simpa using hm), readBytes_length]; omega) rfl

/-- Moving the cursor past whole blocks: INV3 and INV5 hold whatever was consumed. -/
theorem consume_loopInv {P : Params} {c : Nat} {s : State} (h : Placed P s) (hm : c % 16 = 0) :
    LoopInv P (consume c s) := by
  obtain ⟨hf, ha, hw⟩ := h
  have hcap := P.cap_ge
  have hcm := P.cap_mod
  refine ⟨⟨?_, ?_, ⟨by simpa using hw.wf, by simpa using hw.region⟩⟩, ?_, ?_⟩ <;>
    simp only [consume_pos, consume_len] <;> split <;> omega

/-- The end of a message keeps the form of the workspace (R60). -/
theorem emptyCursor_workspaceInv {P : Params} {s : State} (h : WorkspaceInv P s) :
    WorkspaceInv P (emptyCursor P s) where
  wf := emptyCursor_wf P h.wf
  region c hc := by
    rw [emptyCursor_ws] at hc
    split at hc
    · exact h.region c (mem_of_mem_zeroBytes hc)
    · exact h.region c hc

/-- With an empty cursor nothing of R23 is left to show but the form of the workspace and the configuration. -/
theorem inv_of_empty {P : Params} {s : State} (hp : s.pos = 0) (hl : s.len = 0) (hw : WorkspaceInv P s)
    (hc : ConfigInv s) : Inv P s :=
  ⟨⟨by omega, by omega, fun _ => hp, by omega, by have := P.cap_ge; omega⟩, hw, hc⟩

theorem ConfigInv.congr {s t : State} (h : ConfigInv s) (hp : t.phase = s.phase) (hm : t.mode = s.mode)
    (hk : t.klen = s.klen) : ConfigInv t := ⟨hm.trans h.mode, fun hc => hk ▸ h.klen (hp ▸ hc)⟩

/-- No invariant is about the host's channels. -/
theorem Inv.withChannels {P : Params} {s : State} (h : Inv P s) (data : Bytes) (out : List HostItem) :
    Inv P { s with dataIn := data, hostOut := out } :=
  ⟨⟨h.cursor.bound, h.cursor.fit, h.cursor.wrap, h.cursor.aligned, h.cursor.room⟩,
    ⟨h.workspace.wf, h.workspace.region⟩, ⟨h.config.mode, h.config.klen⟩⟩

end Sys2Proof.Machine
end

section
/-! SUPPORT. The loop of PROCESS from a sound state: one pass, all passes, and what the host sees of the whole
(41_encrypt_process.md R130 to R132, 43_decrypt_process.md R150 to R152). -/

namespace Sys2Proof.Machine

/-! ## The reserve (R151) -/

/-- Whether the session withholds a block's worth of bytes until FINISH (R151). -/
def withholds (s : State) : Bool := s.dir == .dec && s.pad

@[simp] theorem withholds_hostView (s : State) : withholds (hostView s) = withholds s := rfl

theorem lenBound_eq (s : State) : lenBound s = if withholds s then 16 else 15 := by
  simp [lenBound, withholds]

/-- Without padding there is no reserve; with it there are 1 to 16 bytes, and whole blocks are before them (R151). -/
theorem reserve_cases (p : Bool) (total : Nat) :
    (p = false ∧ reserve p total = 0) ∨
      (p = true ∧ 1 ≤ reserve p total ∧ reserve p total ≤ 16 ∧ reserve p total % 16 = total % 16) := by
  cases p with
  | false => exact .inl ⟨rfl, rfl⟩
  | true =>
    refine .inr ⟨rfl, ?_⟩
    simp only [reserve, if_true]
    split <;> omega

/-- How many of `total` staged and new bytes a PROCESS transforms and releases (R130, R150, R151). -/
def releaseLength (p : Bool) (total : Nat) : Nat := down16 (total - reserve p total)

theorem releaseLength_mod (p : Bool) (total : Nat) : releaseLength p total % 16 = 0 := down16_mod _

theorem releaseLength_le (p : Bool) (total : Nat) : releaseLength p total ≤ total :=
  (down16_le _).trans (Nat.sub_le ..)

/-- What is withheld is within INV1. -/
theorem sub_releaseLength_le (p : Bool) (total : Nat) :
    total - releaseLength p total ≤ if p then 16 else 15 := by
  unfold releaseLength down16
  rcases reserve_cases p total with ⟨rfl, h⟩ | ⟨rfl, h⟩ <;> simp <;> omega

/-- What INV1 allows to be staged is all withheld, so an empty chunk releases nothing (R152). -/
theorem releaseLength_of_bound {p : Bool} {len : Nat} (hl : len ≤ if p then 16 else 15) :
    releaseLength p len = 0 := by
  unfold releaseLength down16
  rcases reserve_cases p len with ⟨rfl, h⟩ | ⟨rfl, h⟩ <;> simp at hl <;> omega

/-- Whole blocks that went before do not change what is released in the end: the reserve looks at the total alone. -/
theorem add_down16_sub_reserve {p : Bool} {n total : Nat} (hn : n % 16 = 0) (hlt : n < total) :
    n + down16 (total - n - reserve p total) = releaseLength p total := by
  unfold releaseLength down16
  rcases reserve_cases p total with ⟨-, h⟩ | ⟨-, h⟩ <;> omega

/-! ## One pass -/

/-- The state a pass goes on with. -/
def afterPass (P : Params) (d : Dir) (plen : Nat) (chunk : Bytes) (s : State) : State :=
  consume (passLength P plen chunk s) (passed P d plen chunk s)

/-- The output of a pass. -/
def passOutput (P : Params) (d : Dir) (plen : Nat) (chunk : Bytes) (s : State) : Bytes :=
  readBytes (passed P d plen chunk s).ws (dataAddr P s.pos) (passLength P plen chunk s)

section
variable {P : Params} {d : Dir} {plen : Nat} {chunk : Bytes} {s : State}

theorem stageCount_le (P : Params) (n : Nat) (s : State) : stageCount P n s ≤ n := Nat.min_le_left ..

/-- The state of a pass between its stage and its TRANSFORM. -/
theorem stage_of_pass (P : Params) (chunk : Bytes) (s : State) :
    staged P (stageCount P chunk.length s) chunk s =
      appended P (chunk.take (stageCount P chunk.length s)) s := staged_eq_appended P s (stageCount_le ..)

theorem passLength_le : passLength P plen chunk s ≤ s.len + stageCount P chunk.length s := requestLength_le _ _ _

theorem passLength_mod : passLength P plen chunk s % 16 = 0 := requestLength_mod _ _ _

/-- A pass keeps all invariants but INV1. -/
theorem afterPass_loopInv (hE : EngineContract P.engine) (h : Placed P s) :
    LoopInv P (afterPass P d plen chunk s) := by
  have hf := h.fit
  have hst : Placed P (staged P (stageCount P chunk.length s) chunk s) := by
    rw [stage_of_pass]
    refine appended_placed h ?_
    simp only [List.length_take, stageCount]
    omega
  exact consume_loopInv (transformed_placed hE d hst passLength_mod passLength_le) passLength_mod

/-- With chunk bytes left over the buffer was full, so a pass drains it (R132). -/
theorem afterPass_drained (h : Placed P s) (hr : chunk.drop (stageCount P chunk.length s) ≠ []) :
    (afterPass P d plen chunk s).pos = 0 ∧ (afterPass P d plen chunk s).len = 0 := by
  have hf := h.fit
  have ha := h.aligned
  have hcm := P.cap_mod
  have hlen : (passed P d plen chunk s).len = s.len + stageCount P chunk.length s := rfl
  have hw : s.len + stageCount P chunk.length s = P.cap - s.pos := by
    have : stageCount P chunk.length s < chunk.length := by
      simpa [List.drop_eq_nil_iff] using hr
    simp only [stageCount] at this ⊢
    omega
  have hall : passLength P plen chunk s = s.len + stageCount P chunk.length s := by
    simp only [passLength, requestLength, if_neg hr]
    exact down16_of_mod (by rw [show (staged P _ chunk s).len = _ from hw]; omega)
  rw [afterPass, consume_pos, consume_len, hlen, hall]
  simp

/-- A pass that takes all that is left of the chunk keeps back the reserve. -/
theorem passLength_of_last (hr : chunk.drop (stageCount P chunk.length s) = []) :
    passLength P plen chunk s = down16 (s.len + chunk.length - plen) := by
  have : stageCount P chunk.length s = chunk.length :=
    (stageCount_le ..).antisymm (by simpa [List.drop_eq_nil_iff] using hr)
  simp only [passLength, requestLength, if_pos hr]
  rw [show (staged P _ chunk s).len = s.len + _ from rfl, this]

/-- After the stage the staged bytes and the rest of the chunk are the bytes there were before. -/
theorem stagedBytes_stage (hw : s.ws.wf) :
    stagedBytes P (staged P (stageCount P chunk.length s) chunk s) ++ chunk.drop (stageCount P chunk.length s) =
      stagedBytes P s ++ chunk := by
  rw [stage_of_pass, stagedBytes_appended _ hw, List.append_assoc, List.take_append_drop]

theorem passLength_le_stagedBytes :
    passLength P plen chunk s ≤ (stagedBytes P (staged P (stageCount P chunk.length s) chunk s)).length := by
  rw [stagedBytes_length]
  exact passLength_le

/-- A pass runs the engine over the first staged and new bytes. -/
theorem pass_transforms (hE : EngineContract P.engine) (hw : s.ws.wf) :
    ((afterPass P d plen chunk s).es, passOutput P d plen chunk s) =
      P.engine.transformBytes s.es d ((stagedBytes P s ++ chunk).take (passLength P plen chunk s)) := by
  have hw' : (staged P (stageCount P chunk.length s) chunk s).ws.wf := writeBytes_wf _ _ hw
  rw [← stagedBytes_stage hw, List.take_append_of_le_length passLength_le_stagedBytes, afterPass, consume_es]
  exact transformed_staged hE d hw' passLength_mod passLength_le

/-- The bytes not yet transformed after a pass. -/
theorem stagedBytes_afterPass (hE : EngineContract P.engine) (hw : s.ws.wf) :
    stagedBytes P (afterPass P d plen chunk s) ++ chunk.drop (stageCount P chunk.length s) =
      (stagedBytes P s ++ chunk).drop (passLength P plen chunk s) := by
  rw [← stagedBytes_stage hw, List.drop_append_of_le_length passLength_le_stagedBytes]
  exact congrArg (· ++ _) (stagedBytes_consume_transformed hE d _ passLength_mod)

/-- Of what the host sees a pass changes LEN and the engine's state alone. -/
theorem hostView_afterPass :
    hostView (afterPass P d plen chunk s) =
      { hostView s with len := (afterPass P d plen chunk s).len, es := (afterPass P d plen chunk s).es } := by
  rw [afterPass, hostView_consume, consume_len, consume_es]
  rfl

end

/-! ## All passes -/

/-- The loop completes from every state that meets R23: after the first pass every pass stages at least one byte
(R132). -/
theorem processLoop_completes {P : Params} (hE : EngineContract P.engine) (d : Dir) (plen : Nat) {fuel : Nat}
    {chunk : Bytes} (out : Bytes) {s : State} (h : Placed P s)
    (hf : chunk = [] ∨ chunk.length < fuel ∨ (chunk.length ≤ fuel ∧ s.pos + s.len < P.cap)) :
    ∃ t, processLoop P d plen fuel chunk out s = .next t := by
  induction fuel generalizing chunk out s with
  | zero =>
    cases chunk with
    | nil => exact ⟨_, rfl⟩
    | cons b chunk => simp at hf
  | succ fuel ih =>
    cases chunk with
    | nil => exact ⟨_, rfl⟩
    | cons b chunk =>
      rw [processLoop, pass_eq _ h.fit]
      refine ih _ (afterPass_loopInv hE h).toPlaced ?_
      by_cases hr : (b :: chunk).drop (stageCount P (b :: chunk).length s) = []
      · exact .inl hr
      · obtain ⟨hp, hl⟩ := afterPass_drained (d := d) (plen := plen) h hr
        have hcap := P.cap_ge
        refine .inr (.inr ⟨?_, by rw [← afterPass, hp, hl]; omega⟩)
        simp only [List.length_drop, List.length_cons, stageCount, reduceCtorEq, false_or] at hf ⊢
        omega

/-- Where a PROCESS that began in `s₀` with the staged and new bytes `all` stands, `chunk` left and `out` gathered:
some whole blocks are transformed and gathered, the rest is staged or still to come; of what the host sees nothing has
changed but LEN and the engine's state. -/
structure Streaming (P : Params) (d : Dir) (plen : Nat) (all : Bytes) (s₀ : State) (chunk out : Bytes) (s : State)
    (n : Nat) : Prop where
  inv : LoopInv P s
  whole : n % 16 = 0
  rest : stagedBytes P s ++ chunk = all.drop n
  transform : P.engine.transformBytes s₀.es d (all.take n) = (s.es, out)
  view : hostView s = { hostView s₀ with len := s.len, es := s.es }
  done : chunk = [] → n = down16 (all.length - plen)

/-- A pass goes on with the stream: EC5 joins its TRANSFORM to those before (R177). -/
theorem Streaming.pass {P : Params} (hE : EngineContract P.engine) {d : Dir} {p : Bool} {all chunk out : Bytes}
    {s₀ s : State} {n : Nat} (h : Streaming P d (reserve p all.length) all s₀ chunk out s n) (hc : chunk ≠ []) :
    Streaming P d (reserve p all.length) all s₀ (chunk.drop (stageCount P chunk.length s))
      (out ++ passOutput P d (reserve p all.length) chunk s) (afterPass P d (reserve p all.length) chunk s)
      (n + passLength P (reserve p all.length) chunk s) := by
  have hw := h.inv.workspace.wf
  have hlen : s.len + chunk.length = all.length - n := by simpa using congrArg List.length h.rest
  have hpos : 0 < chunk.length := List.length_pos_iff.2 hc
  have hl := passLength_le (P := P) (plen := reserve p all.length) (chunk := chunk) (s := s)
  have hst := stageCount_le P chunk.length s
  have hm := passLength_mod (P := P) (plen := reserve p all.length) (chunk := chunk) (s := s)
  have hn := h.whole
  refine ⟨afterPass_loopInv hE h.inv.toPlaced, by omega, ?_, ?_, ?_, fun hr => ?_⟩
  · rw [stagedBytes_afterPass hE hw, h.rest, List.drop_drop]
  · rw [List.take_add, hE.cut _ _ _ _ (by rw [List.length_take]; omega)
      (by rw [List.length_take, List.length_drop]; omega), h.transform, ← h.rest,
      ← pass_transforms hE hw]
  · rw [hostView_afterPass, h.view]
  · rw [passLength_of_last hr, hlen]
    exact add_down16_sub_reserve hn (by omega)

/-! ## PROCESS as the host sees it -/

/-- The session after a PROCESS of a session, from the view `v` and the staged bytes `b` (R131, R152): the staged and
new bytes but those withheld are transformed and output, the withheld ones are staged. -/
def streamSession (e : Engine) (chunk : Bytes) (v : State) (b : Bytes) : State × Bytes :=
  let n := releaseLength (withholds v) (b ++ chunk).length
  let r := e.transformBytes v.es v.dir ((b ++ chunk).take n)
  (respondOk r.2 { v with len := (b ++ chunk).length - n, es := r.1 }, (b ++ chunk).drop n)

/-- The session after a PROCESS with this chunk (R115, R117). -/
def processSession (e : Engine) (chunk : Bytes) (v : State) (b : Bytes) : State × Bytes :=
  match v.phase with
  | .unconfigured => (respondIllegal v, b)
  | .configured => streamSession e chunk v b

/-- A command ends in a sound state of the session `x`. -/
def EndsAs (P : Params) (o : Result) (x : State × Bytes) : Prop :=
  ∃ t, o = .next t ∧ Inv P t ∧ hostSession P t = x

/-- In a session PROCESS is the loop with the reserve of R151, which is 0 in an encrypt session (R130). -/
theorem processChunk_configured (P : Params) (chunk : Bytes) {s : State} (hp : s.phase = .configured) :
    processChunk P chunk s =
      processLoop P s.dir (reserve (withholds s) (s.len + chunk.length)) (chunk.length + 1) chunk [] s := by
  unfold processChunk
  rw [hp]
  cases hd : s.dir <;> simp [processEncrypt, processDecrypt, withholds, hd, reserve]

/-- The answer at the end of the stream. -/
theorem Streaming.endsAs {P : Params} {s u : State} {chunk out : Bytes} {n : Nat} (hi : Inv P s)
    (h : Streaming P s.dir (reserve (withholds s) (stagedBytes P s ++ chunk).length) (stagedBytes P s ++ chunk) s []
      out u n) :
    EndsAs P (.next (respondOk out u)) (streamSession P.engine chunk (hostView s) (stagedBytes P s)) := by
  obtain ⟨hloop, -, hrest, htrans, hview, hn⟩ := h
  have hn : n = releaseLength (withholds s) (stagedBytes P s ++ chunk).length := hn rfl
  rw [List.append_nil] at hrest
  have hlen : u.len = (stagedBytes P s ++ chunk).length - n := by
    rw [← stagedBytes_length P, hrest, List.length_drop]
  have hb : u.len ≤ lenBound u := by
    rw [show lenBound u = lenBound s from (congrArg lenBound hview :), lenBound_eq, hlen, hn]
    exact sub_releaseLength_le _ _
  have hc : ConfigInv u := hi.config.congr (congrArg State.phase hview :) (congrArg State.mode hview :)
    (congrArg State.klen hview :)
  subst hn
  refine ⟨_, rfl, (hloop.inv hb hc).withChannels _ _, Prod.ext ?_ hrest⟩
  simp only [streamSession, withholds_hostView, hostView_es, hostView_dir, htrans, ← hlen]
  exact congrArg (respondOk out) hview

/-- PROCESS completes from every sound state, in the session R131 and R152 say, which no parameter but the engine has
a part in. -/
theorem processChunk_endsAs {P : Params} (hE : EngineContract P.engine) (chunk : Bytes) {s : State} (hi : Inv P s) :
    EndsAs P (processChunk P chunk s) (processSession P.engine chunk (hostView s) (stagedBytes P s)) := by
  unfold processSession
  rw [hostView_phase]
  cases hp : s.phase with
  | unconfigured => exact ⟨respondIllegal s, by simp [processChunk, hp], hi.withChannels _ _, rfl⟩
  | configured =>
    set all := stagedBytes P s ++ chunk with hall
    have hlen : all.length = s.len + chunk.length := by simp [hall]
    have hstart : Streaming P s.dir (reserve (withholds s) all.length) all s chunk [] s 0 := by
      refine ⟨hi.loopInv, rfl, rfl, hE.zero _ _, rfl, fun hc => ?_⟩
      rw [hlen, hc]
      exact (releaseLength_of_bound (lenBound_eq s ▸ hi.cursor.bound)).symm
    obtain ⟨t, ht⟩ := processLoop_completes hE s.dir (reserve (withholds s) all.length) [] hi.loopInv.toPlaced
      (.inr (.inl (Nat.lt_succ_self chunk.length)))
    rw [processChunk_configured P chunk hp, ← hlen, ht]
    exact processLoop_induct (Q := fun t => EndsAs P (.next t) _)
      (fun chunk out u => ∃ n, Streaming P s.dir (reserve (withholds s) all.length) all s chunk out u n)
      (fun _ _ _ hc ⟨_, hn⟩ _ => ⟨_, hn.pass hE hc⟩) (fun _ _ ⟨_, hn⟩ => hn.endsAs hi) ⟨0, hstart⟩ ht

end Sys2Proof.Machine
end

section
/-! SUPPORT. NEW, PROCESS and FINISH with their payload, each as a function of the host's view, the staged bytes and the
engine: no other parameter and no other byte of the workspace has a part in the result (00_scope.md R9). -/

namespace Sys2Proof.Machine

/-! ## FINISH as the host sees it -/

/-- The session after its message has ended with this answer: the cursor is empty. -/
def closeSession (st : Status) (out : Bytes) (v : State) : State × Bytes := (respond st out (setLen 0 v), [])

/-- The end of an encrypt message of which the bytes `b` are staged, pad included (R140). -/
def flushSession (e : Engine) (v : State) (b : Bytes) : State × Bytes :=
  let r := e.transformBytes v.es .enc b
  closeSession .ok r.2 { v with es := r.1 }

/-- FINISH in an encrypt session (R140). -/
def finishEncryptSession (e : Engine) (v : State) (b : Bytes) : State × Bytes :=
  if v.pad then flushSession e v (b ++ padBytes (padLength b.length))
  else if b.length % 16 ≠ 0 then closeSession .unalignedInput [] v
  else flushSession e v b

/-- The end of a decrypt message of which the blocks `b` are staged (R160). -/
def releaseSession (e : Engine) (v : State) (b : Bytes) : State × Bytes :=
  let r := e.transformBytes v.es .dec b
  if v.pad then
    if padOk r.2 then closeSession .ok (r.2.take (b.length - (padByte r.2).toNat)) { v with es := r.1 }
    else closeSession .badPadding [] { v with es := r.1 }
  else closeSession .ok r.2 { v with es := r.1 }

/-- FINISH in a decrypt session (R160). -/
def finishDecryptSession (e : Engine) (v : State) (b : Bytes) : State × Bytes :=
  if b.length = 0 then closeSession .ok [] v
  else if b.length % 16 ≠ 0 then closeSession .unalignedInput [] v
  else releaseSession e v b

/-- FINISH (R116, R117). -/
def finishSession (e : Engine) (v : State) (b : Bytes) : State × Bytes :=
  match v.phase, v.dir with
  | .unconfigured, _ => (respondIllegal v, b)
  | .configured, .enc => finishEncryptSession e v b
  | .configured, .dec => finishDecryptSession e v b

/-- A message ends in a sound state with nothing staged, whatever is answered. -/
theorem respond_emptyCursor_endsAs {P : Params} {s : State} (hw : WorkspaceInv P s) (hc : ConfigInv s) (st : Status)
    (out : Bytes) : EndsAs P (.next (respond st out (emptyCursor P s))) (closeSession st out (hostView s)) :=
  have hw' := emptyCursor_workspaceInv hw
  ⟨_, rfl, inv_of_empty rfl rfl ⟨hw'.wf, hw'.region⟩ ⟨hc.mode, hc.klen⟩, rfl⟩

/-- A TRANSFORM of all staged bytes. -/
theorem transformed_all {P : Params} (hE : EngineContract P.engine) (d : Dir) {s : State} (hw : s.ws.wf)
    (hm : s.len % 16 = 0) :
    ((transformed P d (dataAddr P s.pos) s.len s).es,
      readBytes (transformed P d (dataAddr P s.pos) s.len s).ws (dataAddr P s.pos) s.len) =
      P.engine.transformBytes s.es d (stagedBytes P s) := by
  rw [transformed_staged hE d hw hm le_rfl, List.take_of_length_le (stagedBytes_length ..).le]

/-- The transform, the output and the empty cursor at the end of an encrypt message. -/
theorem flushEncrypt_endsAs {P : Params} (hE : EngineContract P.engine) {s : State} (h : Placed P s)
    (hc : ConfigInv s) (hm : s.len % 16 = 0) :
    EndsAs P (flushEncrypt P s) (flushSession P.engine (hostView s) (stagedBytes P s)) := by
  rw [flushEncrypt_eq s hm (.inr h.fit), flushSession, hostView_es, ← transformed_all hE .enc h.workspace.wf hm]
  exact respond_emptyCursor_endsAs (transformed_placed hE .enc h hm le_rfl).workspace ⟨hc.mode, hc.klen⟩ _ _

theorem finishEncrypt_endsAs {P : Params} (hE : EngineContract P.engine) {s : State} (hi : Inv P s)
    (hd : s.dir = .enc) :
    EndsAs P (finishEncrypt P s) (finishEncryptSession P.engine (hostView s) (stagedBytes P s)) := by
  have hlen : s.len ≤ 15 := by simpa [lenBound, hd] using hi.cursor.bound
  unfold finishEncrypt finishEncryptSession
  rw [hostView_pad, stagedBytes_length]
  split
  · have hblock := len_add_padLength (Nat.lt_succ_of_le hlen)
    have hroom : s.pos + s.len + padLength s.len ≤ P.cap := by
      have := hi.cursor.room
      omega
    rw [writePad_eq s hroom, andThen_next, padded_eq_appended, ← stagedBytes_appended _ hi.workspace.wf]
    exact flushEncrypt_endsAs hE (appended_placed hi.loopInv.toPlaced (by simpa using hroom))
      ⟨hi.config.mode, hi.config.klen⟩ (by simp [appended, hblock])
  · split
    · exact respond_emptyCursor_endsAs hi.workspace hi.config _ _
    · exact flushEncrypt_endsAs hE hi.loopInv.toPlaced hi.config (by omega)

/-- The check and the strip of the padding look at the transformed bytes alone. -/
theorem releaseDecrypt_endsAs {P : Params} {s : State} (hw : WorkspaceInv P s) (hc : ConfigInv s) (off n : Nat) :
    EndsAs P (.next (releaseDecrypt P off n s))
      (if s.pad then
        if padOk (readBytes s.ws off n) then
          closeSession .ok ((readBytes s.ws off n).take (n - (padByte (readBytes s.ws off n)).toNat)) (hostView s)
        else closeSession .badPadding [] (hostView s)
      else closeSession .ok (readBytes s.ws off n) (hostView s)) := by
  unfold releaseDecrypt
  rw [readBytes_take _ _ _ _ (Nat.sub_le ..)]
  dsimp only
  split
  · split <;> exact respond_emptyCursor_endsAs hw hc _ _
  · exact respond_emptyCursor_endsAs hw hc _ _

theorem finishDecrypt_endsAs {P : Params} (hE : EngineContract P.engine) {s : State} (hi : Inv P s) :
    EndsAs P (finishDecrypt P s) (finishDecryptSession P.engine (hostView s) (stagedBytes P s)) := by
  have hfit := hi.cursor.fit
  unfold finishDecrypt finishDecryptSession
  rw [stagedBytes_length]
  split
  · exact respond_emptyCursor_endsAs hi.workspace hi.config _ _
  · split
    · exact respond_emptyCursor_endsAs hi.workspace hi.config _ _
    · have hm : s.len % 16 = 0 := by omega
      rw [serveTransform_eq s hm (.inr ⟨by unfold dataAddr; omega, by unfold dataAddr; omega⟩), andThen_next,
        releaseSession, hostView_es, ← transformed_all hE .dec hi.workspace.wf hm, stagedBytes_length]
      exact releaseDecrypt_endsAs (transformed_placed hE .dec hi.loopInv.toPlaced hm le_rfl).workspace
        ⟨hi.config.mode, hi.config.klen⟩ _ _

/-- FINISH completes from every sound state, in the session the rules say, which no parameter but the engine has a part
in. -/
theorem finishAt_endsAs {P : Params} (hE : EngineContract P.engine) {s : State} (hi : Inv P s) :
    EndsAs P (finishAt P s) (finishSession P.engine (hostView s) (stagedBytes P s)) := by
  unfold finishAt finishSession
  rw [hostView_phase, hostView_dir]
  cases hp : s.phase with
  | unconfigured => exact ⟨respondIllegal s, rfl, hi.withChannels _ _, rfl⟩
  | configured =>
    cases hd : s.dir with
    | enc => exact finishEncrypt_endsAs hE hi hd
    | dec => exact finishDecrypt_endsAs hE hi

/-! ## PROCESS with its payload -/

/-- The session after a PROCESS of `n` bytes that are all on the data-in channel (R90). -/
def processAtSession (e : Engine) (n : Nat) (v : State) (b : Bytes) : State × Bytes :=
  processSession e (v.dataIn.take n) { v with dataIn := v.dataIn.drop n } b

theorem processAt_endsAs {P : Params} (hE : EngineContract P.engine) {n : BitVec 24} {s : State} (hi : Inv P s)
    (hn : n.toNat ≤ s.dataIn.length) :
    EndsAs P (processAt P n s) (processAtSession P.engine n.toNat (hostView s) (stagedBytes P s)) := by
  unfold processAt
  rw [takePayload_eq hn]
  exact processChunk_endsAs hE _ (hi.withChannels (s.dataIn.drop n.toNat) s.hostOut)

/-- PROCESS answers a next state only with its payload there (R90). -/
theorem payload_of_processAt {P : Params} {n : BitVec 24} {s t : State} (h : processAt P n s = .next t) :
    n.toNat ≤ s.dataIn.length := by
  by_contra hn
  simp [processAt, takePayload, Nat.lt_of_not_le hn] at h

/-! ## NEW as the host sees it -/

/-- A key length that NEW accepts (R7, R110). -/
theorem legalKeyLength_iff {n : Nat} : legalKeyLength n = true ↔ n = 16 ∨ n = 24 ∨ n = 32 := by
  simp [legalKeyLength, or_assoc]

/-- NEW reads the operands and what the host sees, and asks the engine: CAP, BASE, ZEROIZE and the workspace have no
part in what the host sees of its result. -/
theorem hostView_construct {P Q : Params} (hPQ : P.engine = Q.engine) (dir : Dir) (pad : Bool) (key : Bytes)
    (iv : Option Bytes) (s : State) :
    hostView (construct P dir pad key iv s) = hostView (construct Q dir pad key iv (hostView s)) := by
  unfold construct
  split
  · rfl
  · split
    · rfl
    · simp only [respondOk, hostView_respond, requestSetIv, serveSetIv, requestSetKey, serveSetKey, hPQ]
      rfl

/-- NEW ends in a sound state with nothing staged, whatever its operands. -/
theorem construct_endsAs {P : Params} (dir : Dir) (pad : Bool) (key : Bytes) (iv : Option Bytes) {s : State}
    (hi : Inv P s) :
    EndsAs P (.next (construct P dir pad key iv s)) (hostView (construct P dir pad key iv s), []) := by
  have hw := emptyCursor_workspaceInv hi.workspace
  unfold construct
  split
  · exact ⟨_, rfl, inv_of_empty rfl rfl ⟨hw.wf, hw.region⟩ ⟨hi.config.mode, nofun⟩, rfl⟩
  · rename_i hk
    split
    · exact ⟨_, rfl, inv_of_empty rfl rfl ⟨hw.wf, hw.region⟩ ⟨hi.config.mode, nofun⟩, rfl⟩
    · refine ⟨_, rfl, inv_of_empty rfl rfl ⟨hw.wf, hw.region⟩ ⟨rfl, fun _ => ?_⟩, rfl⟩
      rcases legalKeyLength_iff.1 (by simpa using hk) with h | h | h <;> simp [h]

/-- The host's view after a NEW that has its payload on the data-in channel (R90). -/
def newAtView (P : Params) (dir : Dir) (pad ivp : Bool) (ivlen klen : BitVec 8) (v : State) : State :=
  let payload := v.dataIn.take (klen.toNat + ivlen.toNat)
  hostView (construct P dir pad (keyOperand klen payload) (ivOperand ivp ivlen klen payload)
    { v with dataIn := v.dataIn.drop (klen.toNat + ivlen.toNat) })

/-- NEW with its payload there completes from every sound state; any machine `Q` with the same engine tells what the
host sees. -/
theorem newAt_endsAs {P Q : Params} (hPQ : P.engine = Q.engine) {dir : Dir} {pad ivp : Bool} {ivlen klen : BitVec 8}
    {s : State} (hi : Inv P s) (hn : klen.toNat + ivlen.toNat ≤ s.dataIn.length) :
    EndsAs P (newAt P dir pad ivp ivlen klen s) (newAtView Q dir pad ivp ivlen klen (hostView s), []) := by
  unfold newAt
  rw [takePayload_eq hn]
  have h := construct_endsAs dir pad (keyOperand klen (s.dataIn.take (klen.toNat + ivlen.toNat)))
    (ivOperand ivp ivlen klen (s.dataIn.take (klen.toNat + ivlen.toNat)))
    (hi.withChannels (s.dataIn.drop (klen.toNat + ivlen.toNat)) s.hostOut)
  rwa [hostView_construct hPQ] at h

/-- NEW answers a next state only with its payload there (R90). -/
theorem payload_of_newAt {P : Params} {dir : Dir} {pad ivp : Bool} {ivlen klen : BitVec 8} {s t : State}
    (h : newAt P dir pad ivp ivlen klen s = .next t) : klen.toNat + ivlen.toNat ≤ s.dataIn.length := by
  by_contra hn
  simp [newAt, takePayload, Nat.lt_of_not_le hn] at h

end Sys2Proof.Machine
end

section
/-! SUPPORT. The statements of 00_scope.md: what the host sees does not depend on the geometry (R9), and every host
command is answered once (R14, R85). -/

namespace Sys2Proof.Machine

/-! ## Two machines, one session (R9) -/

/-- Two commands that end in one and the same session: where one completes the other does, and they leave sound states
that hold the same session. -/
theorem EndsAs.sameSession {P Q : Params} {o o' : Result} {x : State × Bytes} (h : EndsAs P o x)
    (h' : EndsAs Q o' x) {s' : State} (hs : o = .next s') :
    ∃ t', o' = .next t' ∧ SameSession P Q s' t' ∧ Inv P s' ∧ Inv Q t' := by
  obtain ⟨s₁, h1, hi, hx⟩ := h
  obtain ⟨t', ht, hi', hx'⟩ := h'
  obtain rfl : s₁ = s' := by rw [h1] at hs; injection hs
  exact ⟨t', ht, sameSession_iff.2 (hx.trans hx'.symm), hi, hi'⟩

/-- Settles O50: after each command the host's view and the staged bytes are a function of the operands, the engine and
the host's view and staged bytes before it (`newAt_endsAs`, `processAt_endsAs`, `finishAt_endsAs`). -/
theorem hostResultsIgnoreGeometry : Obligations.HostResultsIgnoreGeometry := by
  intro P Q s t hE hPQ hs ht ⟨hview, hstaged⟩
  have hdata : s.dataIn = t.dataIn := (congrArg State.dataIn hview :)
  have hE' : EngineContract Q.engine := hPQ ▸ hE
  refine ⟨fun dir pad ivp ivlen klen s' h => ?_, fun n s' h => ?_, fun s' h => ?_⟩
  · have hn := payload_of_newAt h
    have hQ := newAt_endsAs (Q := Q) rfl (dir := dir) (pad := pad) (ivp := ivp) ht (hdata ▸ hn)
    rw [← hview] at hQ
    exact (newAt_endsAs hPQ hs hn).sameSession hQ h
  · have hn := payload_of_processAt h
    have hQ := processAt_endsAs hE' ht (hdata ▸ hn)
    rw [← hPQ, ← hview, ← hstaged] at hQ
    exact (processAt_endsAs hE hs hn).sameSession hQ h
  · have hQ := finishAt_endsAs hE' ht
    rw [← hPQ, ← hview, ← hstaged] at hQ
    exact (finishAt_endsAs hE hs).sameSession hQ h

/-! ## One answer (R14, R85, R86, R190, R196) -/

/-- What was sent between `l` and `l'` is one response word and its output bytes: at most 2^24 of them, none with an
error, and InvalidInputType never. -/
def AnsweredOnce (l l' : List HostItem) : Prop :=
  ∃ st out, l' = l ++ reply st out ∧ out.length ≤ 2 ^ 24 ∧ (st ≠ .ok → out = []) ∧ st ≠ .invalidInputType

theorem answeredOnce_error (l : List HostItem) {st : Status} (h : st ≠ .invalidInputType) :
    AnsweredOnce l (l ++ reply st []) := ⟨st, [], rfl, Nat.zero_le _, fun _ => rfl, h⟩

theorem answeredOnce_ok (l : List HostItem) {out : Bytes} (h : out.length ≤ 2 ^ 24) :
    AnsweredOnce l (l ++ reply .ok out) := ⟨.ok, out, rfl, h, fun hc => absurd rfl hc, nofun⟩

/-- Every outcome of NEW is one answer without output (R110). -/
theorem construct_answeredOnce (P : Params) (dir : Dir) (pad : Bool) (key : Bytes) (iv : Option Bytes) (s : State) :
    AnsweredOnce s.hostOut (construct P dir pad key iv s).hostOut := by
  unfold construct
  split
  · exact answeredOnce_error _ nofun
  · split
    · exact answeredOnce_error _ nofun
    · exact answeredOnce_error _ nofun

theorem newAtView_answeredOnce (P : Params) (dir : Dir) (pad ivp : Bool) (ivlen klen : BitVec 8) (v : State) :
    AnsweredOnce v.hostOut (newAtView P dir pad ivp ivlen klen v).hostOut := by
  rw [newAtView, hostView_hostOut]
  exact construct_answeredOnce P _ _ _ _ { v with dataIn := v.dataIn.drop (klen.toNat + ivlen.toNat) }

/-- A PROCESS releases at most 2^24 bytes: fewer than that are new, at most 16 were staged, and what is released is
whole blocks. -/
theorem processSession_answeredOnce {e : Engine} (hE : EngineContract e) {chunk : Bytes} (v : State) {b : Bytes}
    (hc : chunk.length < 2 ^ 24) (hb : b.length ≤ 16) :
    AnsweredOnce v.hostOut (processSession e chunk v b).1.hostOut := by
  unfold processSession
  cases v.phase with
  | unconfigured => exact answeredOnce_error _ nofun
  | configured =>
    have hle := releaseLength_le (withholds v) (b ++ chunk).length
    have hm := releaseLength_mod (withholds v) (b ++ chunk).length
    have htake : ((b ++ chunk).take (releaseLength (withholds v) (b ++ chunk).length)).length =
        releaseLength (withholds v) (b ++ chunk).length := by rw [List.length_take, min_eq_left hle]
    refine answeredOnce_ok _ ?_
    rw [hE.length _ _ _ (by rw [htake, hm]), htake]
    simp only [List.length_append] at hle hm ⊢
    omega

/-- A FINISH outputs at most what is staged and a pad. -/
theorem finishSession_answeredOnce {e : Engine} (hE : EngineContract e) (v : State) {b : Bytes} (hb : b.length ≤ 16) :
    AnsweredOnce v.hostOut (finishSession e v b).1.hostOut := by
  unfold finishSession
  cases v.phase with
  | unconfigured => exact answeredOnce_error _ nofun
  | configured =>
    cases v.dir with
    | enc =>
      simp only [finishEncryptSession]
      split
      · have hp := len_add_padLength_mod b.length
        have hp' : padLength b.length ≤ 16 := Nat.sub_le ..
        refine answeredOnce_ok _ ?_
        rw [hE.length _ _ _ (by rwa [List.length_append, padBytes_length]), List.length_append, padBytes_length]
        omega
      · split
        · exact answeredOnce_error _ nofun
        · refine answeredOnce_ok _ ?_
          rw [hE.length _ _ _ (by omega)]
          omega
    | dec =>
      simp only [finishDecryptSession]
      split
      · exact answeredOnce_error _ nofun
      · split
        · exact answeredOnce_error _ nofun
        · have hlen : (e.transformBytes v.es .dec b).2.length ≤ 16 := by rwa [hE.length _ _ _ (by omega)]
          simp only [releaseSession]
          split
          · split
            · refine answeredOnce_ok _ ?_
              rw [List.length_take]
              omega
            · exact answeredOnce_error _ nofun
          · exact answeredOnce_ok _ (by omega)

/-- What was sent, as the session a command ends in shows it. -/
theorem EndsAs.hostOut {P : Params} {o : Result} {x : State × Bytes} {t : State} (h : EndsAs P o x)
    (ht : o = .next t) : t.hostOut = x.1.hostOut := by
  obtain ⟨u, h1, -, rfl⟩ := h
  obtain rfl : u = t := by rw [h1] at ht; injection ht
  rfl

/-- Settles O42: by the command, through the session each ends in. -/
theorem oneResponsePerCommand : Obligations.OneResponsePerCommand := by
  intro i s t hi hport h
  have hE := Config.engine_contract
  have hb : (stagedBytes Config.params s).length ≤ 16 := by
    have := hi.cursor.bound
    rw [lenBound_eq] at this
    rw [stagedBytes_length]
    split at this <;> omega
  suffices AnsweredOnce s.hostOut t.hostOut from this
  cases i with
  | new dir pad ivp ivlen klen =>
    rw [(newAt_endsAs rfl hi (payload_of_newAt h)).hostOut h]
    exact newAtView_answeredOnce _ dir pad ivp ivlen klen (hostView s)
  | process n =>
    have hn := payload_of_processAt h
    rw [(processAt_endsAs hE hi hn).hostOut h]
    exact processSession_answeredOnce hE _ ((List.length_take_le ..).trans_lt n.isLt) hb
  | finish =>
    rw [(finishAt_endsAs hE hi).hostOut h]
    exact finishSession_answeredOnce hE _ hb
  | setKey | setIv | transform => cases hport

end Sys2Proof.Machine
end

section
/-! SUPPORT. What one step can do, said once (10_state.md R29, 20_memory.md R61, 30_encoding.md R89,
70_reset_and_hazards.md R220). -/

namespace Sys2Proof.Machine

/-- What a step from `s` can do when it answers a next state. -/
inductive StepsTo (s : State) : State → Prop
  | reset (hreset : s.resetIn = true) : StepsTo s (takeReset Config.params s)
  | stay : StepsTo s s
  | illegal {w : Word} {rest : List Word} (hcmd : s.cmdIn = w :: rest) :
      StepsTo s (respondIllegal { s with cmdIn := rest })
  | request {i : Instr} {rest : List Word} {t : State} (hdecode : decodeRequest s.reqIn = .ok (i, rest))
      (hexec : exec i { s with reqIn := rest } = .next t) : StepsTo s t
  | command {w : Word} {rest : List Word} {i : Instr} {t : State} (hcmd : s.cmdIn = w :: rest)
      (hdecode : decodeCommand w = .ok i) (hexec : exec i { s with cmdIn := rest } = .next t) : StepsTo s t

/-- A step takes the reset input, serves a request or runs a command, or executes nothing. -/
theorem step_stepsTo {s t : State} (h : step s = .next t) : StepsTo s t := by
  unfold step fetch at h
  by_cases hreset : s.resetIn = true
  · rw [if_pos hreset] at h
    injection h with h
    exact h ▸ .reset hreset
  · rw [if_neg hreset] at h
    by_cases hreq : s.reqIn = []
    · rw [if_neg (not_not.2 hreq), fetchCommand] at h
      cases hcmd : s.cmdIn with
      | nil =>
        simp only [hcmd, Host.Outcome.next.injEq] at h
        exact h ▸ .stay
      | cons w rest =>
        cases hdecode : decodeCommand w with
        | error e =>
          simp only [hcmd, hdecode, Host.Outcome.next.injEq] at h
          exact h ▸ .illegal hcmd
        | ok i =>
          simp only [hcmd, hdecode] at h
          by_cases hpayload : s.dataIn.length < payloadBytes i
          · simp only [hpayload, if_true, Host.Outcome.next.injEq] at h
            exact h ▸ .stay
          · simp only [hpayload, if_false] at h
            exact .command hcmd hdecode h
    · rw [if_pos hreq, fetchRequest] at h
      cases hdecode : decodeRequest s.reqIn with
      | ok r =>
        simp only [hdecode] at h
        exact .request hdecode h
      | error e =>
        cases e with
        | argumentWordsMissing =>
          simp only [hdecode, Host.Outcome.next.injEq] at h
          exact h ▸ .stay
        | _ => simp [hdecode] at h

end Sys2Proof.Machine
end

section
/-! SUPPORT. Every instruction and the reset keep the invariants of 10_state.md R23, R26, R27 and of 20_memory.md R51,
R57; so does every step, which settles O45. -/

namespace Sys2Proof.Machine

/-- No invariant is about the ports, the engine's state or the engine port's record. -/
theorem Inv.withPorts {P : Params} {s : State} (h : Inv P s) (es : EngineState) (cmd req : List Word)
    (issued : List Instr) : Inv P { s with es := es, cmdIn := cmd, reqIn := req, issued := issued } :=
  ⟨⟨h.cursor.bound, h.cursor.fit, h.cursor.wrap, h.cursor.aligned, h.cursor.room⟩,
    ⟨h.workspace.wf, h.workspace.region⟩, ⟨h.config.mode, h.config.klen⟩⟩

theorem EndsAs.inv {P : Params} {o : Result} {x : State × Bytes} {t : State} (h : EndsAs P o x) (ht : o = .next t) :
    Inv P t := by
  obtain ⟨u, hu, hi, -⟩ := h
  obtain rfl : u = t := by rw [hu] at ht; injection ht
  exact hi

theorem reset_workspaceInv (P : Params) : WorkspaceInv P State.reset := ⟨reset_wf, nofun⟩

/-- The bytes a reset leaves lie in the data region (R37, R220). -/
theorem takeReset_workspaceInv (P : Params) (s : State) : WorkspaceInv P (takeReset P s) where
  wf := takeReset_wf P s
  region c hc := by
    change c ∈ (if P.zeroize then [] else freeWorkspace P s.fresh) at hc
    split at hc
    · cases hc
    · have hfree : WorkspaceInv P { State.reset with ws := freeWorkspace P s.fresh } :=
        writeBytes_workspaceInv (x := 0) (reset_workspaceInv P) (by simp) rfl
      exact hfree.region c hc

theorem takeReset_inv (P : Params) (s : State) : Inv P (takeReset P s) :=
  inv_of_empty rfl rfl (takeReset_workspaceInv P s) ⟨rfl, nofun⟩

/-- A run within P3 of R174 touches bytes of the data region alone; a run of no bytes has no place and touches none. -/
theorem transformed_workspaceInv {P : Params} (hE : EngineContract P.engine) (d : Dir) {off n : Nat} {s : State}
    (h : WorkspaceInv P s) (hn : n % 16 = 0) (hr : n = 0 ∨ (P.base ≤ off ∧ off + n ≤ P.base + P.cap)) :
    WorkspaceInv P (transformed P d off n s) := by
  rcases hr with rfl | ⟨hlo, hhi⟩
  · rw [transformed_zero hE]
    exact ⟨h.wf, h.region⟩
  · refine writeBytes_workspaceInv (x := off - P.base) h ?_ (by rw [dataAddr, Nat.add_sub_cancel' hlo, transformed_ws])
    rw [hE.length _ _ _ (by simpa using hn), readBytes_length]
    omega

/-- A request on the engine port stores nowhere but in its run. -/
theorem transformAt_inv {P : Params} (hE : EngineContract P.engine) {d : Dir} {off n : Word} {s t : State}
    (hi : Inv P s) (h : transformAt P d off n s = .next t) : Inv P t := by
  obtain ⟨-, -, -, hn, hr, rfl⟩ := transformAt_next h
  obtain ⟨hcursor, hworkspace, hconfig⟩ := hi
  exact ⟨⟨hcursor.bound, hcursor.fit, hcursor.wrap, hcursor.aligned, hcursor.room⟩,
    transformed_workspaceInv hE d hworkspace hn hr, ⟨hconfig.mode, hconfig.klen⟩⟩

/-- What SET_KEY does when it answers a next state (R170). -/
theorem setKeyAt_next {P : Params} {kw : List Word} {s t : State} (h : setKeyAt P kw s = .next t) :
    (kw.length = 4 ∨ kw.length = 6 ∨ kw.length = 8) ∧ t = serveSetKey P kw s := by
  unfold setKeyAt at h
  split at h
  · rename_i hk
    injection h with h
    exact ⟨hk, h.symm⟩
  · cases h

/-- Every instruction that completes keeps the invariants. -/
theorem exec_inv {i : Instr} {s t : State} (hi : Inv Config.params s) (h : exec i s = .next t) :
    Inv Config.params t := by
  have hE := Config.engine_contract
  cases i with
  | new dir pad ivp ivlen klen => exact (newAt_endsAs rfl hi (payload_of_newAt h)).inv h
  | process n => exact (processAt_endsAs hE hi (payload_of_processAt h)).inv h
  | finish => exact (finishAt_endsAs hE hi).inv h
  | setKey kw =>
    obtain ⟨-, rfl⟩ := setKeyAt_next h
    exact hi.withPorts _ s.cmdIn s.reqIn _
  | setIv w0 w1 w2 w3 =>
    obtain rfl : serveSetIv Config.params w0 w1 w2 w3 s = t := by injection h
    exact hi.withPorts _ s.cmdIn s.reqIn _
  | transform d off n => exact transformAt_inv hE hi h

/-- Settles O45, by what a step can do (`step_stepsTo`): a reset meets the invariants from every state, and every
instruction keeps them (`exec_inv`). -/
theorem stepKeepsTheInvariants : Obligations.StepKeepsTheInvariants := by
  intro s t hi h
  cases step_stepsTo h with
  | reset => exact takeReset_inv _ s
  | stay => exact hi
  | illegal => exact (hi.withPorts s.es _ s.reqIn s.issued).withChannels s.dataIn _
  | request _ hexec => exact exec_inv (hi.withPorts s.es s.cmdIn _ s.issued) hexec
  | command _ _ hexec => exact exec_inv (hi.withPorts s.es _ s.reqIn s.issued) hexec

end Sys2Proof.Machine
end

section
/-! SUPPORT. What one NEW and one FINISH can do, each said once, and what PROCESS and FINISH keep from every state
(40_construction.md R110 to R120). -/

namespace Sys2Proof.Machine

/-! ## NEW (R110) -/

/-- What NEW does when it answers a next state: it takes its payload and constructs the session. -/
theorem newAt_next {P : Params} {dir : Dir} {pad ivp : Bool} {ivlen klen : BitVec 8} {s t : State}
    (h : newAt P dir pad ivp ivlen klen s = .next t) :
    ∃ payload, payload.length = klen.toNat + ivlen.toNat ∧
      t = construct P dir pad (keyOperand klen payload) (ivOperand ivp ivlen klen payload)
        { s with dataIn := s.dataIn.drop (klen.toNat + ivlen.toNat) } := by
  have hn := payload_of_newAt h
  rw [newAt, takePayload_eq hn] at h
  injection h with h
  exact ⟨_, by rw [List.length_take, min_eq_left hn], h.symm⟩

/-- The state of a session that NEW has just begun (R110, R112). -/
def constructed (P : Params) (dir : Dir) (pad : Bool) (key : Bytes) (iv : Option Bytes) (s : State) : State :=
  respondOk [] (enterConfigured
    (requestSetIv P (iv.getD defaultIv) (requestSetKey P key (installConfig P dir pad key s))))

/-- NEW begins a session where both lengths are legal, and fails where one is not (R111). -/
theorem construct_cases (P : Params) (dir : Dir) (pad : Bool) (key : Bytes) (iv : Option Bytes) (s : State) :
    (legalKeyLength key.length = true ∧ legalIv iv = true ∧
      construct P dir pad key iv s = constructed P dir pad key iv s) ∨
    (¬ (legalKeyLength key.length = true ∧ legalIv iv = true) ∧
      ∃ st, construct P dir pad key iv s = raiseNew P st s) := by
  unfold construct
  split
  · rename_i hk
    exact .inr ⟨by simp [hk], _, rfl⟩
  · split
    · rename_i hv
      exact .inr ⟨by simp [hv], _, rfl⟩
    · rename_i hk hv
      exact .inl ⟨by simpa using hk, by simpa using hv, rfl⟩

theorem keyOperand_length {klen ivlen : BitVec 8} {payload : Bytes}
    (h : payload.length = klen.toNat + ivlen.toNat) : (keyOperand klen payload).length = klen.toNat := by
  rw [keyOperand, List.length_take]
  omega

/-- The IV is legal when it is absent or 16 bytes are announced for it. -/
theorem legalIv_ivOperand (ivp : Bool) {klen ivlen : BitVec 8} {payload : Bytes}
    (h : payload.length = klen.toNat + ivlen.toNat) :
    legalIv (ivOperand ivp ivlen klen payload) = true ↔ (ivp = true → ivlen = 16) := by
  cases ivp with
  | false => simp [ivOperand, legalIv]
  | true =>
    have hlen : ((payload.drop klen.toNat).take ivlen.toNat).length = ivlen.toNat := by
      rw [List.length_take, List.length_drop]
      omega
    simp [ivOperand, legalIv, hlen, BitVec.toNat_eq]

/-! ## FINISH (R140, R160) -/

/-- FINISH of a decrypt session, after its transform, answers with an empty cursor in every case. -/
theorem releaseDecrypt_answers (P : Params) (off n : Nat) (s : State) :
    ∃ st out, releaseDecrypt P off n s = respond st out (emptyCursor P s) := by
  simp only [releaseDecrypt]
  split
  · split
    · exact ⟨_, _, rfl⟩
    · exact ⟨_, _, rfl⟩
  · exact ⟨_, _, rfl⟩

/-- What FINISH of a session does when it answers a next state: it answers with an empty cursor, and before that it has
transformed nothing, or the staged bytes, with the pad after them or as they are. -/
theorem finishAt_next {P : Params} {s t : State} (hp : s.phase = .configured) (h : finishAt P s = .next t) :
    ∃ st out u, t = respond st out (emptyCursor P u) ∧
      (u = s ∨ ∃ v, (v = s ∨ v = padded P s) ∧ v.len % 16 = 0 ∧
        u = transformed P s.dir (dataAddr P v.pos) v.len v) := by
  unfold finishAt at h
  rw [hp] at h
  cases hd : s.dir with
  | enc =>
    simp only [hd, finishEncrypt] at h
    split at h
    · obtain ⟨v, hv, hflush⟩ := andThen_eq_next.1 h
      obtain ⟨hm, -, rfl⟩ := flushEncrypt_next hflush
      exact ⟨_, _, _, rfl, .inr ⟨v, .inr (writePad_next hv), hm, rfl⟩⟩
    · split at h
      · injection h with h
        exact ⟨_, _, s, h.symm, .inl rfl⟩
      · obtain ⟨hm, -, rfl⟩ := flushEncrypt_next h
        exact ⟨_, _, _, rfl, .inr ⟨s, .inl rfl, hm, rfl⟩⟩
  | dec =>
    simp only [hd, finishDecrypt] at h
    split at h
    · injection h with h
      exact ⟨_, _, s, h.symm, .inl rfl⟩
    · split at h
      · injection h with h
        exact ⟨_, _, s, h.symm, .inl rfl⟩
      · obtain ⟨u, hu, hrelease⟩ := andThen_eq_next.1 h
        obtain ⟨hm, -, rfl⟩ := serveTransform_next hu
        injection hrelease with hrelease
        obtain ⟨st, out, hout⟩ := releaseDecrypt_answers P (dataAddr P s.pos) s.len
          (transformed P .dec (dataAddr P s.pos) s.len s)
        exact ⟨st, out, _, hrelease.symm.trans hout, .inr ⟨s, .inl rfl, hm, rfl⟩⟩

/-! ## What PROCESS and FINISH keep (R120, R171, R179) -/

/-- The configuration and the engine's key stay, and all that was sent to the engine is TRANSFORM requests of the
session's direction. -/
structure Continues (s t : State) : Prop extends SameConfig s t where
  sent : ∃ sent, t.issued = s.issued ++ sent ∧ ∀ q ∈ sent, ∃ off n, q = .transform s.dir off n

theorem SameConfig.continues {s t : State} (h : SameConfig s t) (hs : t.issued = s.issued) : Continues s t :=
  ⟨h, [], by simpa using hs, nofun⟩

/-- No clause is about the cursor, the workspace or the host's data-in and outgoing channels. -/
theorem continues_frame (s : State) (pos len : Nat) (ws : Memory) (data : Bytes) (out : List HostItem) :
    Continues s { s with pos := pos, len := len, ws := ws, dataIn := data, hostOut := out } :=
  SameConfig.continues ⟨rfl, rfl, rfl, rfl, rfl, rfl, rfl, rfl, rfl, rfl, rfl⟩ rfl

theorem Continues.refl (s : State) : Continues s s := continues_frame s s.pos s.len s.ws s.dataIn s.hostOut

theorem Continues.trans {s t u : State} (h : Continues s t) (h' : Continues t u) : Continues s u := by
  obtain ⟨hst, l, hl, hq⟩ := h
  obtain ⟨htu, l', hl', hq'⟩ := h'
  refine ⟨hst.trans htu, l ++ l', by rw [hl', hl, List.append_assoc], fun q hmem => ?_⟩
  rcases List.mem_append.1 hmem with hmem | hmem
  · exact hq q hmem
  · exact hst.dir ▸ hq' q hmem

theorem respond_continues (st : Status) (out : Bytes) (s : State) : Continues s (respond st out s) :=
  continues_frame s s.pos s.len s.ws s.dataIn _

theorem emptyCursor_continues (P : Params) (s : State) : Continues s (emptyCursor P s) :=
  continues_frame s 0 0 _ s.dataIn s.hostOut

theorem padded_continues (P : Params) (s : State) : Continues s (padded P s) :=
  continues_frame s s.pos _ _ s.dataIn s.hostOut

/-- A TRANSFORM of the session's direction. -/
theorem transformed_continues {P : Params} (hE : EngineContract P.engine) {d : Dir} (off : Nat) {n : Nat} {s : State}
    (hd : d = s.dir) (hn : n % 16 = 0) : Continues s (transformed P d off n s) :=
  ⟨transformed_sameConfig hE d off s hn, _, rfl, fun _ hq => ⟨_, _, hd ▸ List.mem_singleton.1 hq⟩⟩

theorem afterPass_continues {P : Params} (hE : EngineContract P.engine) {d : Dir} (plen : Nat) (chunk : Bytes)
    {s : State} (hd : d = s.dir) : Continues s (afterPass P d plen chunk s) := by
  have hstage : Continues s (staged P (stageCount P chunk.length s) chunk s) :=
    (staged_sameConfig P _ chunk s).continues rfl
  have hrun : Continues (staged P (stageCount P chunk.length s) chunk s) (passed P d plen chunk s) :=
    transformed_continues hE _ hd passLength_mod
  exact (hstage.trans hrun).trans ((consume_sameConfig _ _).continues (consume_issued ..))

/-- PROCESS on its chunk, from every state: by the loop's passes. -/
theorem processChunk_continues {P : Params} (hE : EngineContract P.engine) {chunk : Bytes} {s t : State}
    (h : processChunk P chunk s = .next t) : Continues s t := by
  cases hp : s.phase with
  | unconfigured =>
    simp only [processChunk, hp, Host.Outcome.next.injEq] at h
    exact h ▸ respond_continues _ _ s
  | configured =>
    rw [processChunk_configured P chunk hp] at h
    exact processLoop_induct (fun _ _ u => Continues s u)
      (fun chunk _ _ _ hu _ => hu.trans (afterPass_continues hE _ chunk hu.dir.symm))
      (fun out u hu => hu.trans (respond_continues .ok out u)) (.refl s) h

theorem processAt_continues {P : Params} (hE : EngineContract P.engine) {n : BitVec 24} {s t : State}
    (h : processAt P n s = .next t) : Continues s t := by
  rw [processAt, takePayload_eq (payload_of_processAt h)] at h
  exact (continues_frame s s.pos s.len s.ws _ s.hostOut).trans (processChunk_continues hE h)

theorem finishAt_continues {P : Params} (hE : EngineContract P.engine) {s t : State} (h : finishAt P s = .next t) :
    Continues s t := by
  cases hp : s.phase with
  | unconfigured =>
    simp only [finishAt, hp, Host.Outcome.next.injEq] at h
    exact h ▸ respond_continues _ _ s
  | configured =>
    obtain ⟨st, out, u, rfl, hu⟩ := finishAt_next hp h
    refine Continues.trans ?_ ((emptyCursor_continues P u).trans (respond_continues st out _))
    rcases hu with rfl | ⟨v, rfl | rfl, hm, rfl⟩
    · exact .refl u
    · exact transformed_continues hE _ rfl hm
    · exact (padded_continues P s).trans (transformed_continues hE _ rfl hm)

end Sys2Proof.Machine
end

section
/-! SUPPORT. The engine's side of a session: the key that NEW sends is the key the engine holds, and the requests after
it stay within P1 and P4 (20_memory.md R53, 45_engine_port.md R174, R179). -/

namespace Sys2Proof.Machine

/-! ## The key as words and as bytes (R53, R112) -/

/-- The bytes of a word are the bytes it was made of. -/
theorem wordBytes_be32 (b0 b1 b2 b3 : Byte) : wordBytes (be32 b0 b1 b2 b3) = [b0, b1, b2, b3] := by
  simp only [wordBytes, be32, List.cons.injEq, and_true]
  refine ⟨?_, ?_, ?_, ?_⟩
  all_goals
    apply BitVec.eq_of_getLsbD_eq
    intro k hk
    simp only [BitVec.getLsbD_extractLsb', BitVec.getLsbD_append, hk]
    grind

/-- Whole words carry the bytes they were packed from. -/
theorem unpackWords_packWords {bs : Bytes} (h : bs.length % 4 = 0) : unpackWords (packWords bs) = bs := by
  induction bs using packWords.induct with
  | case1 b0 b1 b2 b3 t ih =>
    have ht : t.length % 4 = 0 := by simp only [List.length_cons] at h; omega
    rw [packWords, unpackWords, wordBytes_be32, ih ht]
    rfl
  | case2 bs hshort =>
    match bs with
    | [] => rfl
    | [_] | [_, _] | [_, _, _] => simp at h
    | b0 :: b1 :: b2 :: b3 :: t => exact (hshort b0 b1 b2 b3 t rfl).elim

/-- The register reads back the key that was written to it (R27). -/
theorem writeKeyRegister_take (old : BytesN 32) {k : Bytes} (h : k.length ≤ 32) :
    (writeKeyRegister old k).1.take k.length = k := by
  rw [writeKeyRegister, fit_val, List.take_take, min_eq_left h, List.append_assoc, List.take_left]

/-! ## The session (R27, R174 P1, P4) -/

/-- A session that NEW has begun: the engine has the session's key, is ready, and is free for either direction. -/
theorem constructed_engineInv {P : Params} (hE : EngineContract P.engine) (dir : Dir) (pad : Bool) {key : Bytes}
    (iv : Option Bytes) {s : State} (hk : legalKeyLength key.length = true) (hidle : s.reqIn = []) :
    EngineInv (constructed P dir pad key iv s) := by
  have hk := legalKeyLength_iff.1 hk
  refine ⟨hidle, fun _ => ?_, fun _ => ?_, fun _ => ?_⟩
  · have hbytes : unpackWords (packWords key) = key := unpackWords_packWords (by omega)
    have hklen : key.length % 64 = key.length := by omega
    have hregister := writeKeyRegister_take s.key (k := key) (by omega)
    simp [constructed, hE.setIv_key, hbytes, hE.setKey_key _ _ hk, hklen, hregister]
  · simpa [constructed] using engineReady_setKey_setIv s.issued (packWords key) _ _ _ _
  · exact directionKept_append_singleton rfl rfl (directionKept_setKey dir s.issued (packWords key))

/-- NEW from every state with an idle port, whatever its answer. -/
theorem construct_engineInv {P : Params} (hE : EngineContract P.engine) (dir : Dir) (pad : Bool) (key : Bytes)
    (iv : Option Bytes) {s : State} (hidle : s.reqIn = []) : EngineInv (construct P dir pad key iv s) := by
  rcases construct_cases P dir pad key iv s with ⟨hk, -, h⟩ | ⟨-, st, h⟩
  · exact h ▸ constructed_engineInv hE dir pad iv hk hidle
  · exact h ▸ ⟨hidle, nofun, nofun, nofun⟩

/-- TRANSFORM requests of the session's direction keep P4. -/
theorem directionKept_append {d : Dir} {l sent : List Instr} (h : directionKept d l = true)
    (hs : ∀ q ∈ sent, ∃ off n, q = .transform d off n) : directionKept d (l ++ sent) = true := by
  induction sent generalizing l with
  | nil => simpa using h
  | cons q sent ih =>
    obtain ⟨off, n, rfl⟩ := hs _ (List.mem_cons_self ..)
    rw [← List.singleton_append, ← List.append_assoc]
    exact ih (directionKept_append_singleton rfl (by simp [tagIs]) h) fun q hq => hs q (List.mem_cons_of_mem _ hq)

/-- What PROCESS and FINISH keep is enough for the engine's side of the session. -/
theorem EngineInv.continues {s t : State} (h : EngineInv s) (hc : Continues s t) : EngineInv t := by
  obtain ⟨hsame, sent, hsent, hq⟩ := hc
  refine ⟨hsame.reqIn.trans h.idle, fun hp => ?_, fun hp => ?_, fun hp => ?_⟩
  all_goals rw [hsame.phase] at hp
  · rw [hsame.engineKey, hsame.key, hsame.klen, h.key hp]
  · exact hsent ▸ engineReady_append (h.ready hp) sent
  · exact hsent ▸ hsame.dir ▸ directionKept_append (h.direction hp) hq

/-- No clause is about the host's channels. -/
theorem EngineInv.withHost {s : State} (h : EngineInv s) (cmd : List Word) (out : List HostItem) :
    EngineInv { s with cmdIn := cmd, hostOut := out } := ⟨h.idle, h.key, h.ready, h.direction⟩

/-- The command channel has no engine requests (R88). -/
theorem decodeCommand_onEnginePort {w : Word} {i : Instr} (h : decodeCommand w = .ok i) : i.onEnginePort = false := by
  unfold decodeCommand at h
  split_ifs at h
  all_goals
    injection h with h
    exact h ▸ rfl

/-- Every host command that completes keeps the engine's side of the session. -/
theorem exec_engineInv {i : Instr} {s t : State} (hi : EngineInv s) (hhost : i.onEnginePort = false)
    (h : exec i s = .next t) : EngineInv t := by
  have hE := Config.engine_contract
  cases i with
  | new dir pad ivp ivlen klen =>
    obtain ⟨payload, -, rfl⟩ := newAt_next h
    exact construct_engineInv hE dir pad _ _ hi.idle
  | process n => exact hi.continues (processAt_continues hE h)
  | finish => exact hi.continues (finishAt_continues hE h)
  | setKey | setIv | transform => cases hhost

end Sys2Proof.Machine
end

section
/-! SUPPORT. The statements of 10_state.md but O45: reset (R37, R220), PHASE (R28, R114), ZEROIZE (R60), the engine's
side of a session (R27, R174), and INV6 (R23). -/

namespace Sys2Proof.Machine

/-! ## The engine's side of a session -/

/-- Settles O46, by what a step can do (`step_stepsTo`): with the port idle no request is served, and every command
keeps the engine's side of the session (`exec_engineInv`). -/
theorem stepKeepsTheEngineKey : Obligations.StepKeepsTheEngineKey := by
  intro s t _ hi h
  cases step_stepsTo h with
  | reset => exact ⟨rfl, nofun, nofun, nofun⟩
  | stay => exact hi
  | illegal => exact hi.withHost _ _
  | request hdecode =>
    rw [hi.idle] at hdecode
    cases hdecode
  | command _ hdecode hexec =>
    exact exec_engineInv (hi.withHost _ s.hostOut) (decodeCommand_onEnginePort hdecode) hexec

/-! ## ZEROIZE (R60) -/

/-- With ZEROIZE an empty cursor means an empty data region. -/
theorem readByte_emptyCursor {P : Params} (hz : P.zeroize = true) (s : State) {a : Nat} (hlo : P.base ≤ a)
    (hhi : a < P.base + P.cap) : readByte (emptyCursor P s).ws a = 0 := by
  rw [emptyCursor_ws, if_pos hz, readByte_zeroBytes, if_pos ⟨hlo, hhi⟩]

/-- NEW leaves the workspace as an empty cursor does, whatever it answers. -/
theorem construct_ws (P : Params) (dir : Dir) (pad : Bool) (key : Bytes) (iv : Option Bytes) (s : State) :
    (construct P dir pad key iv s).ws = (emptyCursor P s).ws := by
  rcases construct_cases P dir pad key iv s with ⟨-, -, h⟩ | ⟨-, st, h⟩
  · rw [h]
    rfl
  · rw [h]
    rfl

/-- Settles O31: FINISH of a session and NEW end with an empty cursor (`finishAt_next`, `construct_ws`), and a reset
leaves no byte in the memory. -/
theorem zeroizeClearsTheWorkspace : Obligations.ZeroizeClearsTheWorkspace := by
  intro P hz
  refine ⟨fun s t hp h a hlo hhi => ?_, fun dir pad ivp ivlen klen s t h a hlo hhi => ?_, fun s a => ?_⟩
  · obtain ⟨st, out, u, rfl, -⟩ := finishAt_next hp h
    exact readByte_emptyCursor hz u hlo hhi
  · obtain ⟨payload, -, rfl⟩ := newAt_next h
    rw [construct_ws]
    exact readByte_emptyCursor hz _ hlo hhi
  · have hws : (takeReset P s).ws = [] := if_pos hz
    rw [hws]
    rfl

/-! ## PHASE (R28, R114) -/

/-- PHASE after NEW, by its two lengths (R111). -/
theorem newAt_phase {P : Params} {dir : Dir} {pad ivp : Bool} {ivlen klen : BitVec 8} {s t : State}
    (h : newAt P dir pad ivp ivlen klen s = .next t) :
    t.phase = if (klen = 16 ∨ klen = 24 ∨ klen = 32) ∧ (ivp = true → ivlen = 16) then .configured
      else .unconfigured := by
  obtain ⟨payload, hlen, rfl⟩ := newAt_next h
  have hlegal : (klen = 16 ∨ klen = 24 ∨ klen = 32) ∧ (ivp = true → ivlen = 16) ↔
      legalKeyLength (keyOperand klen payload).length = true ∧ legalIv (ivOperand ivp ivlen klen payload) = true := by
    rw [keyOperand_length hlen, legalKeyLength_iff, legalIv_ivOperand ivp hlen]
    simp [BitVec.toNat_eq]
  rw [if_congr hlegal rfl rfl]
  rcases construct_cases P dir pad (keyOperand klen payload) (ivOperand ivp ivlen klen payload)
    { s with dataIn := s.dataIn.drop (klen.toNat + ivlen.toNat) } with ⟨hk, hv, h⟩ | ⟨hn, st, h⟩
  · rw [h, if_pos ⟨hk, hv⟩]
    rfl
  · rw [h, if_neg hn]
    rfl

/-- Settles O43, by the instruction: NEW by its lengths (`newAt_phase`), PROCESS and FINISH by what they keep
(`Continues`), the engine's requests by the state each leaves. -/
theorem onlyNewWritesPhase : Obligations.OnlyNewWritesPhase := by
  intro i s t h
  have hE := Config.engine_contract
  cases i with
  | new => exact newAt_phase h
  | process => exact (processAt_continues hE h).phase
  | finish => exact (finishAt_continues hE h).phase
  | setKey =>
    obtain ⟨-, rfl⟩ := setKeyAt_next h
    rfl
  | setIv =>
    injection h with h
    exact h ▸ rfl
  | transform =>
    obtain ⟨-, -, -, -, -, rfl⟩ := transformAt_next h
    rfl

/-! ## INV6 (R23, R152) -/

/-- A padded decrypt session never releases all the bytes it has: the reserve is at least one byte (R151). -/
theorem sub_releaseLength_pos {total : Nat} (h : 1 ≤ total) : 1 ≤ total - releaseLength true total := by
  rcases reserve_cases true total with ⟨hf, -⟩ | ⟨-, hr, -⟩
  · cases hf
  · have hle : releaseLength true total ≤ total - reserve true total := down16_le _
    omega

/-- LEN after a PROCESS of a session: what is not released of the bytes staged before and of the new ones (R131,
R152). -/
theorem processAt_len {P : Params} (hE : EngineContract P.engine) {n : BitVec 24} {s t : State} (hi : Inv P s)
    (hp : s.phase = .configured) (h : processAt P n s = .next t) :
    t.len = s.len + n.toNat - releaseLength (withholds s) (s.len + n.toNat) := by
  have hn := payload_of_processAt h
  obtain ⟨u, hu, -, hsession⟩ := processAt_endsAs hE hi hn
  obtain rfl : u = t := by rw [hu] at h; injection h
  have hstaged := congrArg (fun x => x.2.length) hsession
  have htake : (s.dataIn.take n.toNat).length = n.toNat := by rw [List.length_take, min_eq_left hn]
  simpa [hostSession, processAtSession, processSession, streamSession, hp, htake, withholds, hostView] using hstaged

/-- Settles O47: a padded decrypt session withholds 1 to 16 bytes of all it has, once it has any. -/
theorem paddedDecryptWithholds : Obligations.PaddedDecryptWithholds := by
  intro n s t hi hp hd hpad hany h
  have hlen := processAt_len Config.engine_contract hi hp h
  rw [show withholds s = true by simp [withholds, hd, hpad]] at hlen
  have htotal : 1 ≤ s.len + n.toNat := by
    rcases hany with hn | hs
    · have : n.toNat ≠ 0 := fun hc => hn (BitVec.eq_of_toNat_eq hc)
      omega
    · omega
  rw [hlen]
  exact ⟨sub_releaseLength_pos htotal, sub_releaseLength_le true _⟩

/-! ## Reset (R37, R220) -/

/-- Settles O11: the reset input is taken before anything else. -/
theorem resetInputEndsTheSession : Obligations.ResetInputEndsTheSession := by
  intro s hreset
  exact ⟨takeReset Config.params s, by simp [step, fetch, hreset], rfl, rfl, rfl, rfl, rfl, rfl, rfl⟩

/-- Settles O12, by the fields of the reset state. -/
theorem resetStateIsUnconfigured : Obligations.ResetStateIsUnconfigured := ⟨rfl, rfl, rfl, rfl, rfl, rfl, rfl⟩

/-- Settles O44: the cursor is empty, the memory lists no byte, and there is no session. -/
theorem resetMeetsTheInvariants : Obligations.ResetMeetsTheInvariants :=
  ⟨inv_of_empty rfl rfl (reset_workspaceInv _) ⟨rfl, nofun⟩, rfl, nofun, nofun, nofun⟩

end Sys2Proof.Machine
end

section
/-! SUPPORT. What a step finds, one equation per case (20_memory.md R61, R64, 30_encoding.md R89, R90,
70_reset_and_hazards.md R220, R231); with them the step that runs a command, and that every step from a sound state
completes. -/

namespace Sys2Proof.Machine

/-- The reset input goes before anything else (R220). -/
theorem step_of_resetIn {s : State} (hreset : s.resetIn = true) : step s = .next (takeReset Config.params s) := by
  simp [step, fetch, hreset]

/-- With no reset and an idle engine port a step looks at the command channel (R29, R61). -/
theorem fetch_of_idle_port {s : State} (hreset : s.resetIn = false) (hreq : s.reqIn = []) :
    fetch s = fetchCommand s := by
  simp [fetch, hreset, hreq]

section
variable {w : Word} {rest : List Word} {i : Instr} {s : State}

theorem fetchCommand_of_empty (hcmd : s.cmdIn = []) : fetchCommand s = .stay s := by simp [fetchCommand, hcmd]

/-- An illegal word is consumed and answered (R89). -/
theorem fetchCommand_of_illegal {e : DecodeError} (hcmd : s.cmdIn = w :: rest) (hdecode : decodeCommand w = .error e) :
    fetchCommand s = .stay (respondIllegal { s with cmdIn := rest }) := by simp [fetchCommand, hcmd, hdecode]

/-- A command waits for its payload (R231). -/
theorem fetchCommand_of_waiting (hcmd : s.cmdIn = w :: rest) (hdecode : decodeCommand w = .ok i)
    (hpayload : s.dataIn.length < payloadBytes i) : fetchCommand s = .stay s := by
  simp [fetchCommand, hcmd, hdecode, hpayload]

/-- A command with its payload there is run (R61, R90). -/
theorem fetchCommand_of_ready (hcmd : s.cmdIn = w :: rest) (hdecode : decodeCommand w = .ok i)
    (hpayload : payloadBytes i ≤ s.dataIn.length) : fetchCommand s = .run i { s with cmdIn := rest } := by
  simp [fetchCommand, hcmd, hdecode, Nat.not_lt.2 hpayload]

end

/-- Settles O7, by what a step finds on the command channel (`fetchCommand_of_ready`). -/
theorem stepRunsTheDecodedCommand : Obligations.StepRunsTheDecodedCommand := by
  intro w rest i s hreset hreq hcmd hdecode hpayload
  rw [step, fetch_of_idle_port hreset hreq, fetchCommand_of_ready hcmd hdecode hpayload]

/-- Every host command with its payload there completes from every sound state (R56, R132, R201). -/
theorem exec_host_completes {i : Instr} {s : State} (hi : Inv Config.params s) (hhost : i.onEnginePort = false)
    (hpayload : payloadBytes i ≤ s.dataIn.length) : ∃ t, exec i s = .next t := by
  have hE := Config.engine_contract
  cases i with
  | new dir pad ivp ivlen klen =>
    obtain ⟨t, ht, -⟩ := newAt_endsAs rfl (dir := dir) (pad := pad) (ivp := ivp) hi hpayload
    exact ⟨t, ht⟩
  | process n =>
    obtain ⟨t, ht, -⟩ := processAt_endsAs hE hi hpayload
    exact ⟨t, ht⟩
  | finish =>
    obtain ⟨t, ht, -⟩ := finishAt_endsAs hE hi
    exact ⟨t, ht⟩
  | setKey | setIv | transform => cases hhost

/-- Settles O48, by what a step finds: the reset input, no command, an illegal word, a command that waits for its
payload, or one that runs (`exec_host_completes`). -/
theorem everyStepCompletes : Obligations.EveryStepCompletes := by
  intro s hi hreq
  cases hreset : s.resetIn with
  | true => exact ⟨_, step_of_resetIn hreset⟩
  | false =>
    rw [step, fetch_of_idle_port hreset hreq]
    cases hcmd : s.cmdIn with
    | nil => exact ⟨s, by rw [fetchCommand_of_empty hcmd]⟩
    | cons w rest =>
      cases hdecode : decodeCommand w with
      | error e => exact ⟨_, by rw [fetchCommand_of_illegal hcmd hdecode]⟩
      | ok i =>
        rcases Nat.lt_or_ge s.dataIn.length (payloadBytes i) with hpayload | hpayload
        · exact ⟨s, by rw [fetchCommand_of_waiting hcmd hdecode hpayload]⟩
        · rw [fetchCommand_of_ready hcmd hdecode hpayload]
          exact exec_host_completes (hi.withPorts s.es rest s.reqIn s.issued) (decodeCommand_onEnginePort hdecode)
            hpayload

end Sys2Proof.Machine
end

section
/-! SUPPORT. Words and bytes (20_memory.md R53): the value of a word by its bytes, and that packing and unpacking undo
each other. -/

namespace Sys2Proof.Machine

/-- The number of a bit vector with another appended below it. -/
theorem toNat_append_eq_add {m n : Nat} (x : BitVec m) (y : BitVec n) :
    (x ++ y).toNat = x.toNat * 2 ^ n + y.toNat := by
  rw [BitVec.toNat_append, Nat.shiftLeft_eq, Nat.mul_comm, ← Nat.two_pow_add_eq_or_of_lt y.isLt]

/-- The value of a word, its first byte most significant (R53(b)). -/
theorem be32_toNat (b0 b1 b2 b3 : Byte) :
    (be32 b0 b1 b2 b3).toNat = b0.toNat * 2 ^ 24 + b1.toNat * 2 ^ 16 + b2.toNat * 2 ^ 8 + b3.toNat := by
  simp only [be32, toNat_append_eq_add]
  omega

@[simp] theorem wordBytes_length (w : Word) : (wordBytes w).length = 4 := rfl

/-- A word is made of its four bytes again, whatever follows them. -/
theorem packWords_wordBytes_append (w : Word) (bs : Bytes) : packWords (wordBytes w ++ bs) = w :: packWords bs := by
  have hword : be32 (w.extractLsb' 24 8) (w.extractLsb' 16 8) (w.extractLsb' 8 8) (w.extractLsb' 0 8) = w := by
    apply BitVec.eq_of_toNat_eq
    have hw := w.isLt
    simp only [be32_toNat, BitVec.extractLsb'_toNat, Nat.shiftRight_eq_div_pow]
    omega
  simp only [wordBytes, List.cons_append, List.nil_append, packWords, hword]

/-- Words are packed again from their bytes. -/
theorem packWords_unpackWords (ws : List Word) : packWords (unpackWords ws) = ws := by
  induction ws with
  | nil => rfl
  | cons w ws ih => rw [unpackWords, packWords_wordBytes_append, ih]

/-- Every word is four bytes. -/
theorem unpackWords_length (ws : List Word) : (unpackWords ws).length = 4 * ws.length := by
  induction ws with
  | nil => rfl
  | cons w ws ih =>
    rw [unpackWords, List.length_append, wordBytes_length, ih, List.length_cons]
    omega

/-- A sequence of whole words has a quarter as many words as bytes. -/
theorem packWords_length {bs : Bytes} (h : bs.length % 4 = 0) : 4 * (packWords bs).length = bs.length := by
  rw [← unpackWords_length, unpackWords_packWords h]

/-- Settles O6: the value (`be32_toNat`), the order by the definition of packing, and the two inverses. -/
theorem wordsAndBytesAgree : Obligations.WordsAndBytesAgree :=
  ⟨be32_toNat, fun _ _ _ _ _ => rfl, packWords_unpackWords, fun _ => unpackWords_packWords⟩

end Sys2Proof.Machine
end

section
/-! SUPPORT. The three requests on the engine port: SET_KEY and SET_IV (45_engine_port.md R170, R171), TRANSFORM within
its preconditions (R172 to R175) and outside them (R174). -/

namespace Sys2Proof.Machine

/-- Settles O32: the engine holds the key it is given (R179), which has the length of its words. -/
theorem setKeyInstallsTheKey : Obligations.SetKeyInstallsTheKey := by
  intro kw s hwf
  have hwords : kw.length = 4 ∨ kw.length = 6 ∨ kw.length = 8 := by simpa [Instr.wellFormed, or_assoc] using hwf
  have hbytes := unpackWords_length kw
  exact ⟨serveSetKey Config.params kw s, if_pos hwords, Config.engine_contract.setKey_key _ _ (by omega), rfl⟩

/-- Settles O33: the engine holds the chaining value it is given and keeps its key (R179). -/
theorem setIvInstallsTheChainingValue : Obligations.SetIvInstallsTheChainingValue := by
  intro w0 w1 w2 w3 s
  refine ⟨serveSetIv Config.params w0 w1 w2 w3 s, rfl, ?_, Config.engine_contract.setIv_key _ _, rfl⟩
  exact (congrArg Subtype.val (Config.engine_contract.setIv_cv _ _)).trans (fit_of_length (unpackWords_length _))

/-- A request from the port is logged as it stood there. -/
theorem transformed_of_words (P : Params) (d : Dir) (off n : Word) (s : State) :
    transformed P d off.toNat n.toNat s =
      { s with
        ws := (transformed P d off.toNat n.toNat s).ws
        es := (P.engine.transformBytes s.es d (readBytes s.ws off.toNat n.toNat)).1
        issued := s.issued ++ [.transform d off n], replyOut := s.replyOut ++ [n] } := by
  simp [transformed]

/-- Settles O34: the request is served (`transformAt_eq`), the run holds its transform and no other byte changes. -/
theorem transformReplacesTheRun : Obligations.TransformReplacesTheRun := by
  intro d off n s hw hready hdir hn hlo halign hhi
  have hE := Config.engine_contract
  exact ⟨_, transformAt_eq hready hdir (fun _ => halign) hn (.inr ⟨hlo, hhi⟩), readBytes_transformed hE hw hn,
    fun a ha => readByte_transformed_other hE s hn ha, transformed_of_words _ d off n s⟩

section
variable {P : Params} {d : Dir} {off n : Nat} {s : State}

/-- P2 of R174. -/
theorem serveTransform_of_length (hn : n % 16 ≠ 0) : serveTransform P d off n s = .refused .engineLength := by
  simp [serveTransform, hn]

/-- P3 of R174, below the data region. -/
theorem serveTransform_of_region (hn : n % 16 = 0) (hpos : n ≠ 0) (hoff : off < P.base) :
    serveTransform P d off n s = .refused .engineRegion := by
  simp [serveTransform, hn, hpos, hoff]

/-- P3 of R174, above the data region (R51). -/
theorem serveTransform_of_beyond (hn : n % 16 = 0) (hpos : n ≠ 0) (hlo : P.base ≤ off)
    (hhi : P.base + P.cap < off + n) : serveTransform P d off n s = .fault .noSuchAddress := by
  simp [serveTransform, hn, hpos, Nat.not_lt.2 hlo, hhi]

end

/-- Once P1, P4 and the alignment of P3 are met, the request is served (R174). -/
theorem transformAt_eq_serveTransform {P : Params} {d : Dir} {off n : Word} {s : State}
    (hready : engineReady s.issued = true) (hdir : directionKept d s.issued = true)
    (halign : off.toNat < P.base ∨ (off.toNat - P.base) % 16 = 0) :
    transformAt P d off n s = serveTransform P d off.toNat n.toNat s := by
  unfold transformAt
  rw [if_neg (by simp [hready]), if_neg (by simp [hdir]), if_neg (by omega)]

/-- Settles O35, check by check in their order. -/
theorem transformStopsOutsideTheContract : Obligations.TransformStopsOutsideTheContract := by
  refine ⟨fun _ _ _ _ => rfl, fun P d off n s => ⟨fun hready => ?_, fun hready hdir => ?_, fun hready hdir hn => ?_⟩⟩
  · exact if_pos hready
  · simp [transformAt, hready, hdir]
  · have hpos : n.toNat ≠ 0 := fun hc => hn (BitVec.eq_of_toNat_eq hc)
    refine ⟨fun hlo halign => ?_, fun halign => ?_⟩
    · unfold transformAt
      rw [if_neg (by simp [hready]), if_neg (by simp [hdir]), if_pos ⟨hn, hlo, halign⟩]
    · rw [transformAt_eq_serveTransform hready hdir halign]
      exact ⟨serveTransform_of_length, fun hm => serveTransform_of_region hm hpos,
        fun hm => serveTransform_of_beyond hm hpos⟩

end Sys2Proof.Machine
end

section
/-! SUPPORT. The frames of NEW, PROCESS and FINISH over the workspace (20_memory.md R57, R60, R66). -/

namespace Sys2Proof.Machine

/-! ## NEW (R60, R110) -/

/-- Settles O16: NEW leaves the workspace as an empty cursor does (`construct_ws`). -/
theorem newTouchesTheWorkspaceOnlyToZeroize : Obligations.NewTouchesTheWorkspaceOnlyToZeroize := by
  intro dir pad ivp ivlen klen s t h a
  obtain ⟨payload, -, rfl⟩ := newAt_next h
  rw [construct_ws, emptyCursor_ws]
  cases hz : Config.params.zeroize with
  | false => simp
  | true => simp [readByte_zeroBytes]

/-! ## PROCESS (R57, R132) -/

/-- A pass changes the staged bytes and those it stages after them (R57(a), R66). -/
theorem readByte_afterPass {P : Params} (hE : EngineContract P.engine) (d : Dir) (plen : Nat) (chunk : Bytes)
    (s : State) {a : Nat}
    (ha : ¬ (dataAddr P s.pos ≤ a ∧ a < dataAddr P s.pos + s.len + stageCount P chunk.length s)) :
    readByte (afterPass P d plen chunk s).ws a = readByte s.ws a := by
  have hlen := passLength_le (P := P) (plen := plen) (chunk := chunk) (s := s)
  have htake : (chunk.take (stageCount P chunk.length s)).length ≤ stageCount P chunk.length s :=
    List.length_take_le ..
  have hpos := dataAddr_add P s.pos s.len
  rw [afterPass, consume_ws, passed, readByte_transformed_other hE _ passLength_mod (by omega)]
  exact readByte_writeBytes_other _ _ _ (by omega)

/-- Where a PROCESS that had the cursor at `lo` and was to end at `hi` has its cursor, with `n` chunk bytes left: on the
way from `lo` to `hi`, or behind `hi` by CAP since it wrapped (R57(e)); with no byte left it does not matter. -/
structure CursorOnTheWay (P : Params) (lo hi n : Nat) (s : State) : Prop where
  fit : s.pos + s.len ≤ P.cap
  place : n = 0 ∨ (lo ≤ s.pos ∧ s.pos + s.len + n ≤ hi) ∨ s.pos + s.len + n + P.cap ≤ hi

/-- A stage fits below CAP, and takes all there is or fills the buffer (R57(a)). -/
theorem stageCount_cases {P : Params} {s : State} (n : Nat) (hfit : s.pos + s.len ≤ P.cap) :
    s.pos + s.len + stageCount P n s ≤ P.cap ∧
      (stageCount P n s = n ∨ s.pos + s.len + stageCount P n s = P.cap) := by
  unfold stageCount
  omega

/-- A pass moves the cursor on, and wraps it with bytes left only when the buffer was full (R132). -/
theorem CursorOnTheWay.afterPass {P : Params} {d : Dir} {lo hi plen : Nat} {chunk : Bytes} {s : State}
    (h : CursorOnTheWay P lo hi chunk.length s) :
    CursorOnTheWay P lo hi (chunk.drop (stageCount P chunk.length s)).length (afterPass P d plen chunk s) := by
  obtain ⟨hfit, hplace⟩ := h
  obtain ⟨hroom, hfull⟩ := stageCount_cases chunk.length hfit
  have hcount := stageCount_le P chunk.length s
  have hlen : (Machine.afterPass P d plen chunk s).len =
    s.len + stageCount P chunk.length s - passLength P plen chunk s := consume_len ..
  have hpos : (Machine.afterPass P d plen chunk s).pos =
    if passLength P plen chunk s < s.len + stageCount P chunk.length s then s.pos + passLength P plen chunk s
    else 0 := consume_pos ..
  by_cases hleft : passLength P plen chunk s < s.len + stageCount P chunk.length s
  · rw [if_pos hleft] at hpos
    exact ⟨by omega, by rw [List.length_drop]; omega⟩
  · rw [if_neg hleft] at hpos
    exact ⟨by omega, by rw [List.length_drop]; omega⟩

/-- What a pass changes lies where the PROCESS may store. -/
theorem processTouches_of_pass {P : Params} {n m x : Nat} {s u : State}
    (h : CursorOnTheWay P s.pos (s.pos + s.len + n) m u) (hm : m ≠ 0)
    (hx : u.pos ≤ x ∧ x < u.pos + u.len + stageCount P m u) : processTouches P s n x := by
  obtain ⟨hfit, hplace⟩ := h
  have hroom := (stageCount_cases m hfit).1
  have hcount := stageCount_le P m u
  unfold processTouches
  omega

/-- PROCESS without a session is answered ILLEGAL (R117). -/
theorem processChunk_of_unconfigured (P : Params) (chunk : Bytes) {s : State} (hp : s.phase = .unconfigured) :
    processChunk P chunk s = .next (respondIllegal s) := by simp [processChunk, hp]

/-- FINISH without a session is answered ILLEGAL (R117). -/
theorem finishAt_of_unconfigured (P : Params) {s : State} (hp : s.phase = .unconfigured) :
    finishAt P s = .next (respondIllegal s) := by simp [finishAt, hp]

/-- PROCESS on its chunk stores nowhere but where the command may, by the loop's passes. -/
theorem processChunk_frame {P : Params} (hE : EngineContract P.engine) {chunk : Bytes} {s t : State}
    (hfit : s.pos + s.len ≤ P.cap) (h : processChunk P chunk s = .next t) {a : Nat}
    (ha : ∀ x, a = dataAddr P x → ¬ processTouches P s chunk.length x) : readByte t.ws a = readByte s.ws a := by
  cases hp : s.phase with
  | unconfigured =>
    cases h.symm.trans (processChunk_of_unconfigured P chunk hp)
    rfl
  | configured =>
    rw [processChunk_configured P chunk hp] at h
    have hstart : CursorOnTheWay P s.pos (s.pos + s.len + chunk.length) chunk.length s :=
      ⟨hfit, .inr (.inl ⟨le_rfl, le_rfl⟩)⟩
    refine processLoop_induct (Q := fun t => readByte t.ws a = readByte s.ws a)
      (fun rest _ u => CursorOnTheWay P s.pos (s.pos + s.len + chunk.length) rest.length u ∧
        readByte u.ws a = readByte s.ws a)
      (fun rest _ u hrest ⟨hcursor, hu⟩ _ => ⟨hcursor.afterPass, ?_⟩) (fun _ _ hu => hu.2) ⟨hstart, rfl⟩ h
    refine (readByte_afterPass hE s.dir _ rest u fun ⟨hlo, hhi⟩ => ?_).trans hu
    unfold dataAddr at hlo hhi
    exact ha (a - P.base) (by unfold dataAddr; omega)
      (processTouches_of_pass hcursor (by simpa using hrest) ⟨by omega, by omega⟩)

/-- What PROCESS does when it answers a next state: it takes its payload and runs on its chunk (R90). -/
theorem processAt_next {P : Params} {n : BitVec 24} {s t : State} (h : processAt P n s = .next t) :
    ∃ chunk, chunk.length = n.toNat ∧
      processChunk P chunk { s with dataIn := s.dataIn.drop n.toNat } = .next t := by
  have hn := payload_of_processAt h
  rw [processAt, takePayload_eq hn] at h
  exact ⟨_, by rw [List.length_take, min_eq_left hn], h⟩

/-- Settles O21: the frame of PROCESS on its chunk (`processChunk_frame`). -/
theorem processStoresOnlyWhereItStages : Obligations.ProcessStoresOnlyWhereItStages := by
  intro n s t hcursor h a ha
  obtain ⟨chunk, hlen, h⟩ := processAt_next h
  rw [← hlen] at ha
  exact processChunk_frame Config.engine_contract (s := { s with dataIn := s.dataIn.drop n.toNat }) hcursor.fit h ha

/-! ## FINISH (R57(b), R60, R140, R160) -/

/-- The state whose staged bytes FINISH has the engine transform: in a padded encrypt session the pad is one of them. -/
def finishInput (P : Params) (s : State) : State := if s.dir = .enc ∧ s.pad = true then padded P s else s

theorem finishInput_of_padded_encrypt (P : Params) {s : State} (hd : s.dir = .enc) (hpad : s.pad = true) :
    finishInput P s = padded P s := if_pos ⟨hd, hpad⟩

theorem finishInput_of_unpadded (P : Params) {s : State} (h : s.dir = .dec ∨ s.pad = false) : finishInput P s = s :=
  if_neg fun ⟨hd, hpad⟩ => by simp [hd, hpad] at h

@[simp] theorem finishInput_issued (P : Params) (s : State) : (finishInput P s).issued = s.issued := by
  unfold finishInput; split <;> rfl

theorem finishInput_len (P : Params) (s : State) :
    (finishInput P s).len = s.len + if s.dir = .enc ∧ s.pad = true then padLength s.len else 0 := by
  unfold finishInput; split <;> rfl

/-- Before its TRANSFORM, FINISH stores the pad alone (R57(b)). -/
theorem readByte_finishInput_other (P : Params) (s : State) {a : Nat}
    (ha : ¬ (dataAddr P s.pos ≤ a ∧ a < dataAddr P s.pos + (finishInput P s).len)) :
    readByte (finishInput P s).ws a = readByte s.ws a := by
  rw [finishInput_len] at ha
  unfold finishInput
  split
  · rename_i hpadded
    have hpos := dataAddr_add P s.pos s.len
    rw [if_pos hpadded] at ha
    exact readByte_writeBytes_other _ _ _ (by rw [padBytes_length]; omega)
  · rfl

/-- What FINISH of a session does when it answers a next state, with more said than `finishAt_next` says of the run it
has transformed, if any: the pad is in it in a padded encrypt session alone, and it lies in the data region. -/
theorem finishAt_next_run {P : Params} {s t : State} (hp : s.phase = .configured) (h : finishAt P s = .next t) :
    ∃ st out u, t = respond st out (emptyCursor P u) ∧
      (u = s ∨ (finishInput P s).len % 16 = 0 ∧
        ((finishInput P s).len = 0 ∨ s.pos + (finishInput P s).len ≤ P.cap) ∧
        u = transformed P s.dir (dataAddr P s.pos) (finishInput P s).len (finishInput P s)) := by
  unfold finishAt at h
  rw [hp] at h
  cases hd : s.dir with
  | enc =>
    simp only [hd, finishEncrypt] at h
    split at h
    · rename_i hpad
      obtain ⟨v, hv, hflush⟩ := andThen_eq_next.1 h
      obtain rfl := writePad_next hv
      obtain ⟨hm, hr, rfl⟩ := flushEncrypt_next hflush
      rw [finishInput_of_padded_encrypt P hd hpad]
      exact ⟨_, _, _, rfl, .inr ⟨hm, hr, rfl⟩⟩
    · rename_i hpad
      split at h
      · injection h with h
        exact ⟨_, _, s, h.symm, .inl rfl⟩
      · obtain ⟨hm, hr, rfl⟩ := flushEncrypt_next h
        rw [finishInput_of_unpadded P (.inr (by simpa using hpad))]
        exact ⟨_, _, _, rfl, .inr ⟨hm, hr, rfl⟩⟩
  | dec =>
    rw [finishInput_of_unpadded P (.inl hd)]
    simp only [hd, finishDecrypt] at h
    split at h
    · injection h with h
      exact ⟨_, _, s, h.symm, .inl rfl⟩
    · split at h
      · injection h with h
        exact ⟨_, _, s, h.symm, .inl rfl⟩
      · obtain ⟨u, hu, hrelease⟩ := andThen_eq_next.1 h
        obtain ⟨hm, hr, rfl⟩ := serveTransform_next hu
        injection hrelease with hrelease
        obtain ⟨st, out, hout⟩ := releaseDecrypt_answers P (dataAddr P s.pos) s.len
          (transformed P .dec (dataAddr P s.pos) s.len s)
        exact ⟨st, out, _, hrelease.symm.trans hout, .inr ⟨hm, by unfold dataAddr at hr; omega, rfl⟩⟩

/-- An empty cursor changes no byte outside the data region, and without ZEROIZE no byte at all (R60). -/
theorem readByte_emptyCursor_other {P : Params} (s : State) {a : Nat}
    (ha : P.zeroize = true → ¬ (P.base ≤ a ∧ a < P.base + P.cap)) :
    readByte (emptyCursor P s).ws a = readByte s.ws a := by
  rw [emptyCursor_ws]
  split
  · rename_i hz
    rw [readByte_zeroBytes, if_neg (ha hz)]
  · rfl

/-- Settles O30: nothing is stored, or all that is staged is transformed with the pad before it (`finishAt_next_run`);
the latter cannot be where the answer is UnalignedInput, since what is transformed is whole blocks. -/
theorem finishStoresOnlyStagedAndPad : Obligations.FinishStoresOnlyStagedAndPad := by
  intro s t hp h
  obtain ⟨st, out, u, rfl, hu⟩ := finishAt_next_run hp h
  intro k touched a hz ha
  refine (readByte_emptyCursor_other u hz).trans ?_
  rcases hu with rfl | ⟨hm, -, rfl⟩
  · rfl
  · have hlen : (finishInput Config.params s).len = s.len + k := finishInput_len ..
    have htouched : touched = (finishInput Config.params s).len := by
      rw [hlen]
      refine if_neg fun ⟨hunaligned, hunpadded⟩ => hunaligned ?_
      rwa [finishInput_of_unpadded _ hunpadded] at hm
    rw [htouched] at ha
    rw [readByte_transformed_other Config.engine_contract _ hm ha, readByte_finishInput_other _ s ha]

end Sys2Proof.Machine
end

section
/-! SUPPORT. What the block sends to the engine is within the engine's contract (20_memory.md R54, R55, 45_engine_port.md
R174): SET_KEY and SET_IV of a NEW, and the runs of PROCESS and FINISH. -/

namespace Sys2Proof.Machine

/-! ## The runs of a session -/

/-- P2 and P3 of R174: a run of whole blocks in the data region, at BASE plus a multiple of 16. -/
def RunInRegion (P : Params) (off n : Word) : Prop :=
  n.toNat % 16 = 0 ∧ P.base ≤ off.toNat ∧ (off.toNat - P.base) % 16 = 0 ∧ off.toNat + n.toNat ≤ P.base + P.cap

/-- Between `l` and `l'` nothing was sent but runs within P2 and P3 with the tag `d`. -/
def SentRuns (P : Params) (d : Dir) (l l' : List Instr) : Prop :=
  ∃ sent, l' = l ++ sent ∧ ∀ q ∈ sent, ∃ off n, q = .transform d off n ∧ RunInRegion P off n

theorem SentRuns.refl (P : Params) (d : Dir) (l : List Instr) : SentRuns P d l l := ⟨[], by simp, nofun⟩

theorem SentRuns.trans {P : Params} {d : Dir} {l l' l'' : List Instr} (h : SentRuns P d l l')
    (h' : SentRuns P d l' l'') : SentRuns P d l l'' := by
  obtain ⟨sent, rfl, hq⟩ := h
  obtain ⟨sent', rfl, hq'⟩ := h'
  refine ⟨sent ++ sent', List.append_assoc .., fun q hmem => ?_⟩
  rcases List.mem_append.1 hmem with hmem | hmem
  · exact hq q hmem
  · exact hq' q hmem

/-- A request at an aligned data-region offset is within P2 and P3. As a word its length can only get smaller, by a
multiple of 2^32. -/
theorem runInRegion_dataAddr {P : Params} {pos n : Nat} (hn : n % 16 = 0) (halign : pos % 16 = 0)
    (hlt : pos < P.cap) (hr : pos + n ≤ P.cap) :
    RunInRegion P (BitVec.ofNat 32 (dataAddr P pos)) (BitVec.ofNat 32 n) := by
  have htop := P.top_le
  have hoff : (BitVec.ofNat 32 (dataAddr P pos)).toNat = P.base + pos := by
    rw [BitVec.toNat_ofNat]
    exact Nat.mod_eq_of_lt (by unfold dataAddr; omega)
  unfold RunInRegion
  rw [hoff, BitVec.toNat_ofNat]
  omega

/-- A TRANSFORM at the cursor sends one such run. -/
theorem transformed_sentRuns {P : Params} (d : Dir) {pos n : Nat} (s : State) (hn : n % 16 = 0)
    (halign : pos % 16 = 0) (hlt : pos < P.cap) (hr : pos + n ≤ P.cap) :
    SentRuns P d s.issued (transformed P d (dataAddr P pos) n s).issued :=
  ⟨_, rfl, fun _ hq => ⟨_, _, List.mem_singleton.1 hq, runInRegion_dataAddr hn halign hlt hr⟩⟩

/-- A pass of the loop of PROCESS sends the run from POS on (R55). -/
theorem afterPass_sentRuns {P : Params} (d : Dir) (plen : Nat) (chunk : Bytes) {s : State} (h : LoopInv P s) :
    SentRuns P d s.issued (afterPass P d plen chunk s).issued := by
  have hfit := h.fit
  have hroom := h.room
  have hlen := passLength_le (P := P) (plen := plen) (chunk := chunk) (s := s)
  obtain ⟨hstage, -⟩ := stageCount_cases chunk.length hfit
  rw [afterPass, consume_issued]
  exact transformed_sentRuns d (staged P (stageCount P chunk.length s) chunk s) passLength_mod h.aligned (by omega)
    (by omega)

/-- PROCESS of a session sends runs of its direction alone. -/
theorem processChunk_sentRuns {P : Params} (hE : EngineContract P.engine) {chunk : Bytes} {s t : State}
    (hi : LoopInv P s) (hp : s.phase = .configured) (h : processChunk P chunk s = .next t) :
    SentRuns P s.dir s.issued t.issued := by
  rw [processChunk_configured P chunk hp] at h
  exact processLoop_induct (Q := fun t => SentRuns P s.dir s.issued t.issued)
    (fun _ _ u => LoopInv P u ∧ SentRuns P s.dir s.issued u.issued)
    (fun chunk _ _ _ ⟨hu, hsent⟩ _ =>
      ⟨afterPass_loopInv hE hu.toPlaced, hsent.trans (afterPass_sentRuns s.dir _ chunk hu)⟩)
    (fun _ _ hu => hu.2) ⟨hi, .refl ..⟩ h

/-- FINISH of a session sends runs of its direction alone. -/
theorem finishAt_sentRuns {P : Params} {s t : State} (hi : Inv P s) (hp : s.phase = .configured)
    (h : finishAt P s = .next t) : SentRuns P s.dir s.issued t.issued := by
  obtain ⟨st, out, u, rfl, hu⟩ := finishAt_next_run hp h
  change SentRuns P s.dir s.issued u.issued
  rcases hu with rfl | ⟨hm, hr, rfl⟩
  · exact .refl ..
  · have hroom := hi.cursor.room
    rw [← finishInput_issued P s]
    exact transformed_sentRuns s.dir _ hm hi.cursor.aligned (by omega) (by omega)

/-! ## The contract (R174 P1 to P4) -/

/-- Every request of `sent` is inside the engine's contract after those before it, and a TRANSFORM has the tag `d`. -/
def SentInContract (P : Params) (d : Dir) (l sent : List Instr) : Prop :=
  ∀ before q later, sent = before ++ q :: later →
    requestInContract P (l ++ before) q ∧ ∀ d' off n, q = .transform d' off n → d' = d

theorem sentInContract_nil (P : Params) (d : Dir) (l : List Instr) : SentInContract P d l [] :=
  fun before q later h => by simp at h

/-- In a session the runs of its direction are inside the contract: they keep P1 and P4 for each other. -/
theorem sentInContract_runs {P : Params} {d : Dir} {l sent : List Instr} (hready : engineReady l = true)
    (hdir : directionKept d l = true)
    (hruns : ∀ q ∈ sent, ∃ off n, q = .transform d off n ∧ RunInRegion P off n) : SentInContract P d l sent := by
  rintro before q later rfl
  obtain ⟨off, n, rfl, hrun⟩ := hruns q (by simp)
  have hbefore : ∀ q ∈ before, ∃ off n, q = .transform d off n := fun q hq => by
    obtain ⟨off, n, hq, -⟩ := hruns q (by simp [hq])
    exact ⟨off, n, hq⟩
  refine ⟨⟨engineReady_append hready before, directionKept_append hdir hbefore, hrun⟩, fun d' _ _ hq => ?_⟩
  injection hq with hd
  exact hd.symm

/-- Between the two states of a step requests within the contract were sent, or none. -/
def SendsInContract (P : Params) (s t : State) : Prop :=
  ∃ sent, t.issued = s.issued ++ sent ∧ SentInContract P s.dir s.issued sent

theorem sendsInContract_of_issued {s t : State} (P : Params) (h : t.issued = s.issued) : SendsInContract P s t :=
  ⟨[], by rw [h, List.append_nil], sentInContract_nil _ _ _⟩

/-- In a session the engine is ready for the runs of its direction. -/
theorem sendsInContract_of_sentRuns {P : Params} {s t : State} (he : EngineInv s) (hp : s.phase = .configured)
    (h : SentRuns P s.dir s.issued t.issued) : SendsInContract P s t := by
  obtain ⟨sent, hsent, hruns⟩ := h
  exact ⟨sent, hsent, sentInContract_runs (he.ready hp) (he.direction hp) hruns⟩

/-- NEW sends nothing, or SET_KEY with a key of 4, 6 or 8 words and SET_IV after it (R112, R170). -/
theorem construct_sendsInContract (P : Params) (dir : Dir) (pad : Bool) (key : Bytes) (iv : Option Bytes) (s : State) :
    SendsInContract P s (construct P dir pad key iv s) := by
  rcases construct_cases P dir pad key iv s with ⟨hk, -, h⟩ | ⟨-, st, h⟩
  · rw [h]
    refine ⟨[.setKey (packWords key), .setIv _ _ _ _], List.append_assoc s.issued [_] [_],
      fun before q later hsent => ?_⟩
    have hkey := legalKeyLength_iff.1 hk
    have hwords : 4 * (packWords key).length = key.length := packWords_length (by omega)
    have hmem : q ∈ before ++ q :: later := by simp
    simp only [← hsent, List.mem_cons, List.not_mem_nil, or_false] at hmem
    rcases hmem with rfl | rfl
    · exact ⟨show _ ∨ _ ∨ _ by omega, nofun⟩
    · exact ⟨trivial, nofun⟩
  · rw [h]
    exact sendsInContract_of_issued P rfl

/-- Every host command that completes sends requests within the contract; without a session PROCESS and FINISH send
none (R117). -/
theorem exec_sendsInContract {i : Instr} {s t : State} (hi : Inv Config.params s) (he : EngineInv s)
    (hhost : i.onEnginePort = false) (h : exec i s = .next t) : SendsInContract Config.params s t := by
  cases i with
  | new dir pad ivp ivlen klen =>
    obtain ⟨payload, -, rfl⟩ := newAt_next h
    exact construct_sendsInContract _ dir pad _ _ { s with dataIn := s.dataIn.drop (klen.toNat + ivlen.toNat) }
  | process n =>
    obtain ⟨chunk, -, h⟩ := processAt_next h
    cases hp : s.phase with
    | unconfigured =>
      cases h.symm.trans (processChunk_of_unconfigured _ chunk hp)
      exact sendsInContract_of_issued _ rfl
    | configured =>
      have hi := hi.withChannels (s.dataIn.drop n.toNat) s.hostOut
      have hruns := processChunk_sentRuns Config.engine_contract hi.loopInv hp h
      exact sendsInContract_of_sentRuns he hp hruns
  | finish =>
    change finishAt Config.params s = .next t at h
    cases hp : s.phase with
    | unconfigured =>
      cases h.symm.trans (finishAt_of_unconfigured _ hp)
      exact sendsInContract_of_issued _ rfl
    | configured => exact sendsInContract_of_sentRuns he hp (finishAt_sentRuns hi hp h)
  | setKey | setIv | transform => cases hhost

/-- Settles O40, by what a step can do (`step_stepsTo`): with the port idle only a host command sends requests. -/
theorem requestsStayInTheEngineContract : Obligations.RequestsStayInTheEngineContract := by
  intro s t hi he hreset h
  suffices SendsInContract Config.params s t from this
  cases step_stepsTo h with
  | reset htaken => rw [hreset] at htaken; cases htaken
  | stay => exact sendsInContract_of_issued _ rfl
  | illegal => exact sendsInContract_of_issued _ rfl
  | request hdecode =>
    rw [he.idle] at hdecode
    cases hdecode
  | @command w rest i t _ hdecode hexec =>
    exact exec_sendsInContract (s := { s with cmdIn := rest }) (hi.withPorts s.es rest s.reqIn s.issued)
      (he.withHost rest s.hostOut) (decodeCommand_onEnginePort hdecode) hexec

end Sys2Proof.Machine
end

section
/-! SUPPORT. Fields of words, and with them what the formats of 30_encoding.md say of a command word (R82 to R84, R88)
and of the words of a request (R92). -/

namespace Sys2Proof.Machine

/-! ## Fields of bit vectors -/

/-- A field is two fields appended exactly when they are its upper and its lower part. -/
theorem extractLsb'_eq_append_iff {k m n : Nat} {w : BitVec k} {s : Nat} {x : BitVec m} {y : BitVec n} :
    w.extractLsb' s (m + n) = x ++ y ↔ w.extractLsb' (s + n) m = x ∧ w.extractLsb' s n = y := by
  rw [← BitVec.extractLsb'_append_extractLsb'_eq_extractLsb' rfl]
  constructor
  · intro h
    have hx := congrArg (BitVec.extractLsb' n m) h
    have hy := congrArg (BitVec.extractLsb' 0 n) h
    rw [BitVec.extractLsb'_append_eq_left, BitVec.extractLsb'_append_eq_left] at hx
    rw [BitVec.extractLsb'_append_eq_right, BitVec.extractLsb'_append_eq_right] at hy
    exact ⟨hx, hy⟩
  · rintro ⟨rfl, rfl⟩
    rfl

/-- The same for a whole bit vector. -/
theorem append_eq_iff {m n : Nat} {x : BitVec m} {y : BitVec n} {w : BitVec (m + n)} :
    x ++ y = w ↔ w.extractLsb' n m = x ∧ w.extractLsb' 0 n = y := by
  rw [eq_comm, ← BitVec.extractLsb'_eq_self (x := w), extractLsb'_eq_append_iff, BitVec.extractLsb'_eq_self,
    Nat.zero_add]

theorem eq_dirBit_iff {d : Dir} {b : BitVec 1} : b = dirBit d ↔ dirOfBit b = d := by
  cases d <;> revert b <;> decide

theorem eq_flagBit_iff {f : Bool} {b : BitVec 1} : b = flagBit f ↔ flagOfBit b = f := by
  cases f <;> revert b <;> decide

/-! ## Command words (R82 to R84, R88) -/

section
variable {w : Word}

theorem encode_new_iff {dir : Dir} {pad ivp : Bool} {ivlen klen : BitVec 8} :
    encode (.new dir pad ivp ivlen klen) = [w] ↔
      w.extractLsb' 28 4 = 1 ∧ w.extractLsb' 26 2 = 0 ∧ dirOfBit (w.extractLsb' 25 1) = dir ∧
      flagOfBit (w.extractLsb' 24 1) = pad ∧ flagOfBit (w.extractLsb' 23 1) = ivp ∧ w.extractLsb' 16 7 = 0 ∧
      w.extractLsb' 8 8 = ivlen ∧ w.extractLsb' 0 8 = klen := by
  rw [encode, List.cons.injEq, append_eq_iff]
  simp only [extractLsb'_eq_append_iff, eq_dirBit_iff, eq_flagBit_iff, and_assoc, and_true]
  rfl

theorem encode_process_iff {n : BitVec 24} :
    encode (.process n) = [w] ↔ w.extractLsb' 28 4 = 2 ∧ w.extractLsb' 24 4 = 0 ∧ w.extractLsb' 0 24 = n := by
  rw [encode, List.cons.injEq, append_eq_iff]
  simp only [extractLsb'_eq_append_iff, and_assoc, and_true]
  rfl

theorem encode_finish_iff : encode .finish = [w] ↔ w.extractLsb' 28 4 = 3 ∧ w.extractLsb' 0 28 = 0 := by
  have hfields : (0x30000000#32 : Word) = 3#4 ++ 0#28 := rfl
  rw [encode, List.cons.injEq, hfields, append_eq_iff, and_iff_left rfl]
  rfl

/-- The condition of R88 on a NEW, by the fields of its word. -/
theorem wellFormed_new_iff {dir : Dir} {pad : Bool} {b : BitVec 1} {ivlen klen : BitVec 8} :
    (Instr.new dir pad (flagOfBit b) ivlen klen).wellFormed = true ↔ ¬ (b = 0 ∧ ivlen ≠ 0) := by
  simp [Instr.wellFormed, flagOfBit, imp_iff_not_or]

/-- R91: a word is accepted exactly as the well-formed host command that it encodes. -/
theorem decodeCommand_eq_ok_iff {i : Instr} :
    decodeCommand w = .ok i ↔ i.wellFormed = true ∧ i.onEnginePort = false ∧ encode i = [w] := by
  constructor
  · intro h
    unfold decodeCommand at h
    split_ifs at h with hop hmode hz hiv hop hz hop hz
    all_goals
      injection h with h
      subst h
    · exact ⟨wellFormed_new_iff.2 hiv, rfl,
        encode_new_iff.2 ⟨hop, not_not.1 hmode, rfl, rfl, rfl, not_not.1 hz, rfl, rfl⟩⟩
    · exact ⟨rfl, rfl, encode_process_iff.2 ⟨hop, not_not.1 hz, rfl⟩⟩
    · exact ⟨rfl, rfl, encode_finish_iff.2 ⟨hop, not_not.1 hz⟩⟩
  · rintro ⟨hwf, hhost, henc⟩
    cases i with
    | new dir pad ivp ivlen klen =>
      obtain ⟨hop, hmode, rfl, rfl, rfl, hz, rfl, rfl⟩ := encode_new_iff.1 henc
      rw [decodeCommand, if_pos hop, if_neg (not_not.2 hmode), if_neg (not_not.2 hz), if_neg (wellFormed_new_iff.1 hwf)]
    | process n =>
      obtain ⟨hop, hz, rfl⟩ := encode_process_iff.1 henc
      simp [decodeCommand, hop, hz]
    | finish =>
      obtain ⟨hop, hz⟩ := encode_finish_iff.1 henc
      simp [decodeCommand, hop, hz]
    | setKey | setIv | transform => cases hhost

end

/-! ## The words of a request (R92) -/

section
variable {hdr : Word} {t rest : List Word}

theorem encode_setKey_append_iff {kw : List Word} :
    encode (.setKey kw) ++ rest = hdr :: t ↔
      hdr.extractLsb' 30 2 = 1 ∧ hdr.extractLsb' 4 26 = 0 ∧ hdr.extractLsb' 0 4 = BitVec.ofNat 4 kw.length ∧
      kw ++ rest = t := by
  rw [encode, List.cons_append, List.cons.injEq, append_eq_iff]
  simp only [extractLsb'_eq_append_iff, and_assoc]
  rfl

theorem encode_setIv_append_iff {w0 w1 w2 w3 : Word} :
    encode (.setIv w0 w1 w2 w3) ++ rest = hdr :: t ↔
      hdr.extractLsb' 30 2 = 2 ∧ hdr.extractLsb' 0 30 = 0 ∧ w0 :: w1 :: w2 :: w3 :: rest = t := by
  have hfields : (0x80000000#32 : Word) = 2#2 ++ 0#30 := rfl
  rw [encode, List.cons_append, List.cons.injEq, hfields, append_eq_iff, and_assoc]
  rfl

theorem encode_transform_append_iff {d : Dir} {off nbytes : Word} :
    encode (.transform d off nbytes) ++ rest = hdr :: t ↔
      hdr.extractLsb' 30 2 = 3 ∧ hdr.extractLsb' 1 29 = 0 ∧ dirOfBit (hdr.extractLsb' 0 1) = d ∧
      off :: nbytes :: rest = t := by
  rw [encode, List.cons_append, List.cons.injEq, append_eq_iff]
  simp only [extractLsb'_eq_append_iff, eq_dirBit_iff, and_assoc]
  rfl

end

theorem wellFormed_setKey_iff {kw : List Word} :
    (Instr.setKey kw).wellFormed = true ↔ kw.length = 4 ∨ kw.length = 6 ∨ kw.length = 8 := by
  simp [Instr.wellFormed, or_assoc]

/-- R92: words are accepted exactly as a well-formed request followed by the rest. -/
theorem decodeRequest_eq_ok_iff {ws rest : List Word} {i : Instr} :
    decodeRequest ws = .ok (i, rest) ↔ i.wellFormed = true ∧ i.onEnginePort = true ∧ encode i ++ rest = ws := by
  cases ws with
  | nil =>
    refine ⟨nofun, fun ⟨_, _, henc⟩ => ?_⟩
    cases i <;> cases henc
  | cons hdr t =>
    constructor
    · intro h
      simp only [decodeRequest] at h
      split_ifs at h with hop hz hnw hlen hop hz hop hz
      · cases h
        have hkw : (t.take (hdr.extractLsb' 0 4).toNat).length = (hdr.extractLsb' 0 4).toNat :=
          List.length_take_of_le (not_lt.1 hlen)
        refine ⟨wellFormed_setKey_iff.2 ?_, rfl,
          encode_setKey_append_iff.2 ⟨hop, not_not.1 hz, ?_, List.take_append_drop ..⟩⟩
        · rw [hkw]
          rcases hnw with hnw | hnw | hnw <;> simp [hnw]
        · rw [hkw, BitVec.ofNat_toNat, BitVec.setWidth_eq]
      · split at h <;> cases h
        exact ⟨rfl, rfl, encode_setIv_append_iff.2 ⟨hop, not_not.1 hz, rfl⟩⟩
      · split at h <;> cases h
        exact ⟨rfl, rfl, encode_transform_append_iff.2 ⟨hop, not_not.1 hz, rfl, rfl⟩⟩
    · rintro ⟨hwf, hport, henc⟩
      cases i with
      | new | process | finish => cases hport
      | setKey kw =>
        obtain ⟨hop, hz, hnw, rfl⟩ := encode_setKey_append_iff.1 henc
        rcases wellFormed_setKey_iff.1 hwf with hlen | hlen | hlen
        all_goals
          rw [hlen] at hnw
          simp [decodeRequest, hop, hz, hnw, hlen]
      | setIv w0 w1 w2 w3 =>
        obtain ⟨hop, hz, rfl⟩ := encode_setIv_append_iff.1 henc
        simp [decodeRequest, hop, hz]
      | transform d off nbytes =>
        obtain ⟨hop, hz, rfl, rfl⟩ := encode_transform_append_iff.1 henc
        simp [decodeRequest, hop, hz]

/-! ## Both ports (R88, R92) -/

/-- An accepted command word has zeros in bits 31:30, so it is read as a command. -/
theorem decode_of_command {w : Word} {i : Instr} (t : List Word) (h : decodeCommand w = .ok i) :
    decode (w :: t) = .ok (i, t) := by
  have hop : w.extractLsb' 28 4 = 0#2 ++ 1#2 ∨ w.extractLsb' 28 4 = 0#2 ++ 2#2 ∨ w.extractLsb' 28 4 = 0#2 ++ 3#2 := by
    obtain ⟨-, hhost, henc⟩ := decodeCommand_eq_ok_iff.1 h
    cases i with
    | new => exact .inl (encode_new_iff.1 henc).1
    | process => exact .inr (.inl (encode_process_iff.1 henc).1)
    | finish => exact .inr (.inr (encode_finish_iff.1 henc).1)
    | setKey | setIv | transform => cases hhost
  have hhead : w.extractLsb' 30 2 = 0 := by
    rcases hop with hop | hop | hop <;> exact (extractLsb'_eq_append_iff (m := 2) (n := 2) (s := 28) |>.1 hop).1
  rw [decode, if_pos hhead, h]

/-- An accepted request has no zeros in bits 31:30, so it is read as a request. -/
theorem decode_of_request {ws rest : List Word} {i : Instr} (h : decodeRequest ws = .ok (i, rest)) :
    decode ws = .ok (i, rest) := by
  cases ws with
  | nil => cases h
  | cons hdr t =>
    by_cases hop : hdr.extractLsb' 30 2 = 0
    · simp [decodeRequest, hop] at h
    · rw [decode, if_neg hop, h]

end Sys2Proof.Machine
end

section
/-! SUPPORT. Decoding and encoding agree (30_encoding.md R88 to R92): O1 to O5. -/

namespace Sys2Proof.Machine

/-- Settles O3: a host command is read from its one word (`decodeCommand_eq_ok_iff`), a request from its words on the
port (`decodeRequest_eq_ok_iff`). -/
theorem decodeOfEncode : Obligations.DecodeOfEncode := by
  intro i rest hwf
  cases hport : i.onEnginePort with
  | true => exact decode_of_request (decodeRequest_eq_ok_iff.2 ⟨hwf, hport, rfl⟩)
  | false =>
    obtain ⟨w, hw⟩ : ∃ w, encode i = [w] := by
      cases i with
      | new | process | finish => exact ⟨_, rfl⟩
      | setKey | setIv | transform => cases hport
    rw [hw]
    exact decode_of_command rest (decodeCommand_eq_ok_iff.2 ⟨hwf, hport, hw⟩)

/-- The mask and match of the row of NEW, by fields (R88). -/
theorem and_mask_new_iff {w : Word} :
    w &&& 0xFC7F0000#32 = 0x10000000#32 ↔
      w.extractLsb' 28 4 = 1 ∧ w.extractLsb' 26 2 = 0 ∧ w.extractLsb' 16 7 = 0 := by
  have hmatch : (0x10000000#32 : Word) = 1#4 ++ 0#2 ++ 0#3 ++ 0#7 ++ 0#16 := rfl
  have h4 (x : BitVec 4) : x &&& 15#4 = x := BitVec.and_allOnes
  have h2 (x : BitVec 2) : x &&& 3#2 = x := BitVec.and_allOnes
  have h7 (x : BitVec 7) : x &&& 127#7 = x := BitVec.and_allOnes
  rw [eq_comm, hmatch, append_eq_iff]
  simp only [extractLsb'_eq_append_iff]
  simp [BitVec.extractLsb'_and, h4, h2, h7, and_assoc]

/-- The mask and match of the row of PROCESS, by fields (R88). -/
theorem and_mask_process_iff {w : Word} :
    w &&& 0xFF000000#32 = 0x20000000#32 ↔ w.extractLsb' 28 4 = 2 ∧ w.extractLsb' 24 4 = 0 := by
  have hmatch : (0x20000000#32 : Word) = 2#4 ++ 0#4 ++ 0#24 := rfl
  have h4 (x : BitVec 4) : x &&& 15#4 = x := BitVec.and_allOnes
  rw [eq_comm, hmatch, append_eq_iff]
  simp only [extractLsb'_eq_append_iff]
  simp [BitVec.extractLsb'_and, h4]

/-- The condition of the row of NEW, with IVP as bit 23. -/
theorem getLsbD_23_or_iff {w : Word} :
    (w.getLsbD 23 = true ∨ w.extractLsb' 8 8 = 0) ↔ ¬ (w.extractLsb' 23 1 = 0 ∧ w.extractLsb' 8 8 ≠ 0) := by
  have hbit : w.extractLsb' 23 1 = 0 ↔ w.getLsbD 23 = false := by
    have hfield : w.extractLsb' 23 1 = BitVec.ofBool (w.getLsbD 23) := by
      ext k hk
      simp [Nat.lt_one_iff.1 hk]
    rw [hfield]
    cases w.getLsbD 23 <;> simp
  rw [hbit, not_and_or, not_not, Bool.not_eq_false]

/-- Settles O2: the fields of an accepted word (`decodeCommand_eq_ok_iff`) are those its row's mask and condition
name. -/
theorem commandWordsAreTheTableRows : Obligations.CommandWordsAreTheTableRows := by
  intro w
  refine ⟨⟨?_, ?_⟩, ⟨?_, ?_⟩, ?_⟩
  · rintro ⟨dir, pad, ivp, ivlen, klen, h⟩
    obtain ⟨hwf, -, henc⟩ := decodeCommand_eq_ok_iff.1 h
    obtain ⟨hop, hmode, rfl, rfl, rfl, hz, rfl, rfl⟩ := encode_new_iff.1 henc
    exact ⟨and_mask_new_iff.2 ⟨hop, hmode, hz⟩, getLsbD_23_or_iff.2 (wellFormed_new_iff.1 hwf)⟩
  · rintro ⟨hmask, hiv⟩
    obtain ⟨hop, hmode, hz⟩ := and_mask_new_iff.1 hmask
    exact ⟨_, _, _, _, _, decodeCommand_eq_ok_iff.2 ⟨wellFormed_new_iff.2 (getLsbD_23_or_iff.1 hiv), rfl,
      encode_new_iff.2 ⟨hop, hmode, rfl, rfl, rfl, hz, rfl, rfl⟩⟩⟩
  · rintro ⟨n, h⟩
    obtain ⟨-, -, henc⟩ := decodeCommand_eq_ok_iff.1 h
    obtain ⟨hop, hz, -⟩ := encode_process_iff.1 henc
    exact and_mask_process_iff.2 ⟨hop, hz⟩
  · intro hmask
    obtain ⟨hop, hz⟩ := and_mask_process_iff.1 hmask
    exact ⟨_, decodeCommand_eq_ok_iff.2 ⟨rfl, rfl, encode_process_iff.2 ⟨hop, hz, rfl⟩⟩⟩
  · rw [decodeCommand_eq_ok_iff, encode, List.cons.injEq]
    simp [Instr.wellFormed, Instr.onEnginePort, eq_comm]

/-- Settles O4, by `decodeCommand_eq_ok_iff`. -/
theorem encodeOfDecodedCommand : Obligations.EncodeOfDecodedCommand := fun _ _ => decodeCommand_eq_ok_iff.1

/-- Settles O5, by `decodeRequest_eq_ok_iff`. -/
theorem encodeOfDecodedRequest : Obligations.EncodeOfDecodedRequest := fun _ _ _ => decodeRequest_eq_ok_iff.1

/-- Settles O1: the worked words, decoded. -/
theorem sampleWordsDecode : Obligations.SampleWordsDecode := by
  unfold Obligations.SampleWordsDecode
  decide

end Sys2Proof.Machine
end

section
/-! SUPPORT. What a step does with a request on the engine port, with an illegal word, and where there is nothing to do
(30_encoding.md R89, R92, 70_reset_and_hazards.md R207, R231): O8 to O10. -/

namespace Sys2Proof.Machine

section
variable {i : Instr} {rest : List Word} {s : State}

/-- A request on the engine port goes before any command (log entry 15). -/
theorem fetch_of_busy_port (hreset : s.resetIn = false) (hreq : s.reqIn ≠ []) : fetch s = fetchRequest s := by
  simp [fetch, hreset, hreq]

theorem fetchRequest_of_ready (hdecode : decodeRequest s.reqIn = .ok (i, rest)) :
    fetchRequest s = .run i { s with reqIn := rest } := by
  simp [fetchRequest, hdecode]

/-- A request waits for its argument words (R92). -/
theorem fetchRequest_of_waiting (hdecode : decodeRequest s.reqIn = .error .argumentWordsMissing) :
    fetchRequest s = .stay s := by
  simp [fetchRequest, hdecode]

end

/-- Settles O8, by what a step finds on the engine port (`fetchRequest_of_ready`). -/
theorem stepServesTheDecodedRequest : Obligations.StepServesTheDecodedRequest := by
  intro rest i s hreset hdecode
  have hreq : s.reqIn ≠ [] := fun hnil => by rw [hnil] at hdecode; cases hdecode
  rw [step, fetch_of_busy_port hreset hreq, fetchRequest_of_ready hdecode]

/-- The illegal command words by their fields (R89). -/
def IllegalByFields (w : Word) : Prop :=
  let op := (w.extractLsb' 28 4).toNat
  op = 0 ∨ 4 ≤ op ∨
    (op = 1 ∧ (w.extractLsb' 26 2 ≠ 0 ∨ w.extractLsb' 16 7 ≠ 0 ∨ (w.extractLsb' 23 1 = 0 ∧ w.extractLsb' 8 8 ≠ 0))) ∨
    (op = 2 ∧ w.extractLsb' 24 4 ≠ 0) ∨ (op = 3 ∧ w.extractLsb' 0 28 ≠ 0)

/-- An accepted word has none of the illegal fields (R91). -/
theorem not_illegalByFields_of_decodeCommand {w : Word} {i : Instr} (h : decodeCommand w = .ok i) :
    ¬ IllegalByFields w := by
  obtain ⟨hwf, hhost, henc⟩ := decodeCommand_eq_ok_iff.1 h
  cases i with
  | new dir pad ivp ivlen klen =>
    obtain ⟨hop, hmode, -, -, rfl, hz, rfl, -⟩ := encode_new_iff.1 henc
    have hiv := wellFormed_new_iff.1 hwf
    simpa [IllegalByFields, hop, hmode, hz] using hiv
  | process n =>
    obtain ⟨hop, hz, -⟩ := encode_process_iff.1 henc
    simp [IllegalByFields, hop, hz]
  | finish =>
    obtain ⟨hop, hz⟩ := encode_finish_iff.1 henc
    simp [IllegalByFields, hop, hz]
  | setKey | setIv | transform => cases hhost

/-- Settles O9: the decoder rejects the word (`not_illegalByFields_of_decodeCommand`), and a rejected word is consumed
and answered (`fetchCommand_of_illegal`). -/
theorem illegalWordIsAnswered : Obligations.IllegalWordIsAnswered := by
  intro w rest s hreset hreq hcmd hillegal
  cases hdecode : decodeCommand w with
  | error e =>
    rw [step, fetch_of_idle_port hreset hreq, fetchCommand_of_illegal hcmd hdecode]
    rfl
  | ok i => exact absurd hillegal (not_illegalByFields_of_decodeCommand hdecode)

/-- Settles O10: the step finds no command, a command that waits, or a request that waits. -/
theorem idleAndWaitingKeepTheState : Obligations.IdleAndWaitingKeepTheState := by
  rintro s hreset (⟨hreq, hcmd⟩ | ⟨hreq, w, rest, i, hcmd, hdecode, hpayload⟩ | hdecode)
  · rw [step, fetch_of_idle_port hreset hreq, fetchCommand_of_empty hcmd]
  · rw [step, fetch_of_idle_port hreset hreq, fetchCommand_of_waiting hcmd hdecode hpayload]
  · have hreq : s.reqIn ≠ [] := fun hnil => by rw [hnil] at hdecode; cases hdecode
    rw [step, fetch_of_busy_port hreset hreq, fetchRequest_of_waiting hdecode]

end Sys2Proof.Machine
end

section
/-! SUPPORT. A NEW that succeeds (40_construction.md R110, R112): O14. -/

namespace Sys2Proof.Machine

/-- Four words carry the sixteen bytes they were read from (R53, R112). -/
theorem unpackWords_wordAt {bs : Bytes} (h : bs.length = 16) :
    unpackWords [wordAt bs 0, wordAt bs 1, wordAt bs 2, wordAt bs 3] = bs := by
  have hbytes : unpackWords [wordAt bs 0, wordAt bs 1, wordAt bs 2, wordAt bs 3] =
      (List.range 16).map fun i => bs.getD i 0 := by
    simp only [unpackWords, wordAt, wordBytes_be32]
    rfl
  rw [hbytes]
  apply List.ext_getElem
  · simp [h]
  · intro i _ hi
    simp [hi]

section
variable {P : Params} (dir : Dir) (pad : Bool) {key : Bytes} {iv : Option Bytes} (s : State)

/-- The engine holds the key it is sent (R112, R179). -/
theorem constructed_engineKey (hE : EngineContract P.engine) (hk : legalKeyLength key.length = true) :
    (constructed P dir pad key iv s).es.key = key := by
  have hk := legalKeyLength_iff.1 hk
  have hbytes : unpackWords (packWords key) = key := unpackWords_packWords (by omega)
  simp [constructed, hE.setIv_key, hbytes, hE.setKey_key _ _ hk]

/-- The engine's chaining value is the IV it is sent, or the default IV (R110, R112, R179). -/
theorem constructed_cv (hE : EngineContract P.engine) (hv : legalIv iv = true) :
    (constructed P dir pad key iv s).es.cv.1 = iv.getD defaultIv := by
  have hlen : (iv.getD defaultIv).length = 16 := by
    cases iv with
    | none => rfl
    | some v => simpa [legalIv] using hv
  simp [constructed, hE.setIv_cv, unpackWords_wordAt hlen, fit_of_length hlen]

/-- SET_KEY goes to the engine before SET_IV (R112). -/
theorem constructed_issued :
    (constructed P dir pad key iv s).issued = s.issued ++
      [.setKey (packWords key), .setIv (wordAt (iv.getD defaultIv) 0) (wordAt (iv.getD defaultIv) 1)
        (wordAt (iv.getD defaultIv) 2) (wordAt (iv.getD defaultIv) 3)] :=
  List.append_assoc s.issued [_] [_]

/-- The state that a NEW leaves when it succeeds: all but KEY, the workspace and the engine's side is as R110 says. -/
theorem constructed_eq :
    constructed P dir pad key iv s =
      { s with
        phase := .configured, dir := dir, pad := pad, mode := 0, klen := BitVec.ofNat 6 key.length
        key := (constructed P dir pad key iv s).key, pos := 0, len := 0, ws := (constructed P dir pad key iv s).ws
        es := (constructed P dir pad key iv s).es, hostOut := s.hostOut ++ [.response 0#32]
        issued := (constructed P dir pad key iv s).issued } := rfl

end

/-- The key is the first part of the data-in channel (R87). -/
theorem keyOperand_take (klen ivlen : BitVec 8) (data : Bytes) :
    keyOperand klen (data.take (klen.toNat + ivlen.toNat)) = data.take klen.toNat := by
  rw [keyOperand, List.take_take, min_eq_left (Nat.le_add_right ..)]

/-- The IV, where there is one, is the part after the key (R87). -/
theorem ivOperand_take (ivp : Bool) (ivlen klen : BitVec 8) (data : Bytes) :
    ivOperand ivp ivlen klen (data.take (klen.toNat + ivlen.toNat)) =
      if ivp then some ((data.drop klen.toNat).take ivlen.toNat) else none := by
  rw [ivOperand, List.drop_take, Nat.add_sub_cancel_left, List.take_take, min_self]

/-- A NEW with legal lengths and its payload there begins a session (R90, R110). -/
theorem newAt_of_legal (P : Params) (dir : Dir) (pad : Bool) {ivp : Bool} {ivlen klen : BitVec 8} {s : State}
    (hn : klen.toNat + ivlen.toNat ≤ s.dataIn.length) (hk : legalKeyLength klen.toNat = true)
    (hv : ivp = true → ivlen = 16) :
    newAt P dir pad ivp ivlen klen s =
      .next (constructed P dir pad (s.dataIn.take klen.toNat)
        (if ivp then some ((s.dataIn.drop klen.toNat).take ivlen.toNat) else none)
        { s with dataIn := s.dataIn.drop (klen.toNat + ivlen.toNat) }) := by
  have hpayload : (s.dataIn.take (klen.toNat + ivlen.toNat)).length = klen.toNat + ivlen.toNat :=
    List.length_take_of_le hn
  rw [newAt, takePayload_eq hn, ← keyOperand_take klen ivlen, ← ivOperand_take]
  rcases construct_cases P dir pad (keyOperand klen (s.dataIn.take (klen.toNat + ivlen.toNat)))
    (ivOperand ivp ivlen klen (s.dataIn.take (klen.toNat + ivlen.toNat)))
    { s with dataIn := s.dataIn.drop (klen.toNat + ivlen.toNat) } with ⟨-, -, h⟩ | ⟨hillegal, -⟩
  · exact congrArg _ h
  · rw [keyOperand_length hpayload] at hillegal
    exact absurd ⟨hk, (legalIv_ivOperand ivp hpayload).2 hv⟩ hillegal

/-- Settles O14: NEW begins the session (`newAt_of_legal`), the engine holds its key and IV (`constructed_engineKey`,
`constructed_cv`), and the rest is the state that NEW writes (`constructed_eq`). -/
theorem newInstallsTheSession : Obligations.NewInstallsTheSession := by
  intro dir pad ivp ivlen klen s _ hn hklen hv
  have hE := Config.engine_contract
  have hk : legalKeyLength klen.toNat = true := by rcases hklen with rfl | rfl | rfl <;> rfl
  have hlen : (s.dataIn.take klen.toNat).length = klen.toNat := List.length_take_of_le (by omega)
  have hkey := hlen.symm ▸ hk
  have hiv : legalIv (if ivp then some ((s.dataIn.drop klen.toNat).take ivlen.toNat) else none) = true := by
    rw [← ivOperand_take]
    exact (legalIv_ivOperand ivp (List.length_take_of_le hn)).2 hv
  refine ⟨_, newAt_of_legal Config.params dir pad hn hk hv, ?_, constructed_engineKey _ _ _ hE hkey, ?_, ?_, ?_⟩
  · have hregister := writeKeyRegister_take s.key (k := s.dataIn.take klen.toNat) (by
      have := legalKeyLength_iff.1 hk
      omega)
    rwa [hlen] at hregister
  · rw [constructed_cv _ _ _ hE hiv]
    cases ivp with
    | false => rfl
    | true => rw [hv rfl]; rfl
  · rw [constructed_issued, constructed_engineKey _ _ _ hE hkey, constructed_cv _ _ _ hE hiv]
  · conv_lhs => rw [constructed_eq, hlen]

end Sys2Proof.Machine
end

section
/-! SUPPORT. The session as the host sees it (40_construction.md R111 to R120): the answer of NEW, the commands without
a session, what PROCESS and FINISH keep, and where FINISH leaves the session: O13, O17, O22, O53. -/

namespace Sys2Proof.Machine

/-! ## The answer of NEW (R111, R191, R192) -/

/-- The answer of NEW by its operands: the key length is looked at before the IV length. -/
theorem construct_hostOut (P : Params) (dir : Dir) (pad : Bool) (key : Bytes) (iv : Option Bytes) (s : State) :
    (construct P dir pad key iv s).hostOut = s.hostOut ++
      [.response (if ¬ legalKeyLength key.length = true then 0x10000000#32
        else if ¬ legalIv iv = true then 0x20000000#32
        else 0#32)] := by
  cases hk : legalKeyLength key.length with
  | false => simp only [construct, hk]; rfl
  | true =>
    cases hv : legalIv iv with
    | false => simp only [construct, hk, hv]; rfl
    | true => simp only [construct, hk, hv]; rfl

/-- A NEW with its payload there takes it and constructs the session (R90). -/
theorem newAt_of_payload (P : Params) (dir : Dir) (pad ivp : Bool) {ivlen klen : BitVec 8} {s : State}
    (hn : klen.toNat + ivlen.toNat ≤ s.dataIn.length) : ∃ t, newAt P dir pad ivp ivlen klen s = .next t := by
  rw [newAt, takePayload_eq hn]
  exact ⟨_, rfl⟩

/-- Settles O13: NEW constructs on its operands (`newAt_next`), which answers by their lengths (`construct_hostOut`),
and these are the announced ones. -/
theorem newChecksKeyThenIv : Obligations.NewChecksKeyThenIv := by
  intro dir pad ivp ivlen klen s hn
  obtain ⟨t, h⟩ := newAt_of_payload Config.params dir pad ivp hn
  obtain ⟨payload, hlen, rfl⟩ := newAt_next h
  refine ⟨_, h, ?_⟩
  have hkey : ¬ legalKeyLength (keyOperand klen payload).length = true ↔ klen ≠ 16 ∧ klen ≠ 24 ∧ klen ≠ 32 := by
    rw [keyOperand_length hlen, legalKeyLength_iff]
    simp [BitVec.toNat_eq]
  have hiv : ¬ legalIv (ivOperand ivp ivlen klen payload) = true ↔ ivp = true ∧ ivlen ≠ 16 := by
    rw [legalIv_ivOperand ivp hlen, Classical.not_imp]
  rw [construct_hostOut, if_congr hkey rfl (if_congr hiv rfl rfl)]

/-! ## Without a session (R117) -/

/-- Settles O17: PROCESS takes its payload (`takePayload_eq`), and both commands answer ILLEGAL. -/
theorem withoutSessionIllegal : Obligations.WithoutSessionIllegal := by
  refine ⟨fun n s hp hn => ?_, fun s hp => finishAt_of_unconfigured Config.params hp⟩
  calc processAt Config.params n s
      = processChunk Config.params (s.dataIn.take n.toNat) { s with dataIn := s.dataIn.drop n.toNat } := by
        rw [processAt, takePayload_eq hn]
    _ = .next (respondIllegal { s with dataIn := s.dataIn.drop n.toNat }) := processChunk_of_unconfigured _ _ hp

/-! ## What PROCESS and FINISH keep (R120) -/

/-- Settles O22: the configuration is part of what both commands keep (`processAt_continues`, `finishAt_continues`). -/
theorem processAndFinishKeepConfiguration : Obligations.ProcessAndFinishKeepConfiguration :=
  ⟨fun _ _ _ h => (processAt_continues Config.engine_contract h).toSameConfig,
    fun _ _ h => (finishAt_continues Config.engine_contract h).toSameConfig⟩

/-! ## After FINISH (R118, R119, R203) -/

/-- FINISH of a session leaves the cursor empty, and the engine's state as it was unless it sent a TRANSFORM. -/
theorem finishAt_emptiesCursor {P : Params} {s t : State} (hp : s.phase = .configured) (h : finishAt P s = .next t) :
    t.pos = 0 ∧ t.len = 0 ∧ (t.issued = s.issued → t.es = s.es) := by
  obtain ⟨st, out, u, rfl, hu⟩ := finishAt_next_run hp h
  refine ⟨rfl, rfl, fun hissued => ?_⟩
  rcases hu with rfl | ⟨-, -, rfl⟩
  · rfl
  · simp at hissued

/-- Settles O53: what FINISH keeps (`finishAt_continues`) and where it leaves the cursor (`finishAt_emptiesCursor`). -/
theorem finishStartsANewMessage : Obligations.FinishStartsANewMessage := by
  intro s t hp h
  have hkept := finishAt_continues Config.engine_contract h
  obtain ⟨hpos, hlen, hes⟩ := finishAt_emptiesCursor hp h
  exact ⟨⟨hkept.phase.trans hp, hkept.dir, hkept.pad, hlen⟩, hpos, hkept.engineKey, hes⟩

end Sys2Proof.Machine
end

section
/-! SUPPORT. One PROCESS of a session (41_encrypt_process.md R130, R131, 43_decrypt_process.md R150 to R152): an empty
chunk changes nothing, and any other leaves the state the rules say: O18 and O19. -/

namespace Sys2Proof.Machine

/-! ## An empty chunk (R130(a), R150(a)) -/

/-- Without a chunk byte the loop makes no pass. -/
theorem processChunk_nil (P : Params) {s : State} (hp : s.phase = .configured) :
    processChunk P [] s = .next (respondOk [] s) := by
  rw [processChunk_configured P [] hp]
  rfl

/-- PROCESS with its payload there takes it and runs on its chunk (R90). -/
theorem processAt_of_payload (P : Params) {n : BitVec 24} {s : State} (hn : n.toNat ≤ s.dataIn.length) :
    processAt P n s = processChunk P (s.dataIn.take n.toNat) { s with dataIn := s.dataIn.drop n.toNat } := by
  rw [processAt, takePayload_eq hn]

/-- Settles O18: the chunk is empty, so there is no pass (`processChunk_nil`), in either direction. -/
theorem emptyChunkChangesNothing : Obligations.EmptyChunkChangesNothing := by
  intro s hp
  exact (processAt_of_payload Config.params (n := 0) (Nat.zero_le _)).trans (processChunk_nil Config.params hp)

/-! ## One command (R131, R152) -/

/-- How many of the staged bytes and `k` new ones a PROCESS of the session transforms and outputs. -/
def released (s : State) (k : Nat) : Nat := releaseLength (withholds s) (s.len + k)

/-- What the engine makes of the bytes that a PROCESS of the session with the new bytes `m` has it transform. -/
def releasedRun (P : Params) (m : Bytes) (s : State) : EngineState × Bytes :=
  P.engine.transformBytes s.es s.dir ((stagedBytes P s ++ m).take (released s m.length))

theorem length_take_released (P : Params) (m : Bytes) (s : State) :
    ((stagedBytes P s ++ m).take (released s m.length)).length = released s m.length := by
  refine List.length_take_of_le ?_
  rw [List.length_append, stagedBytes_length]
  exact releaseLength_le ..

/-- The engine runs over whole blocks (R54). -/
theorem length_take_released_mod (P : Params) (m : Bytes) (s : State) :
    ((stagedBytes P s ++ m).take (released s m.length)).length % 16 = 0 := by
  rw [length_take_released]
  exact releaseLength_mod ..

theorem releasedRun_length {P : Params} (hE : EngineContract P.engine) (m : Bytes) (s : State) :
    (releasedRun P m s).2.length = released s m.length := by
  rw [releasedRun, hE.length _ _ _ (length_take_released_mod P m s), length_take_released]

/-- What a PROCESS of the session `s` leaves that takes the bytes `chunk` and leaves `data` on the data-in channel: the
state that R131 and R152 say. The parameters decide on POS, the workspace and the engine port's traffic alone. -/
structure Processed (P : Params) (chunk data : Bytes) (s t : State) : Prop where
  inv : Inv P t
  staged : stagedBytes P t = (stagedBytes P s ++ chunk).drop (released s chunk.length)
  pos_of_nil : chunk = [] → t.pos = s.pos
  state : t = { s with
    pos := t.pos, len := s.len + chunk.length - released s chunk.length, ws := t.ws, es := (releasedRun P chunk s).1
    dataIn := data, hostOut := s.hostOut ++ reply .ok (releasedRun P chunk s).2, issued := t.issued
    replyOut := t.replyOut }

/-- What the host does not see of a state is POS, the workspace and the engine port's traffic. -/
theorem eq_of_hostView {t v : State} (h : hostView t = v) :
    t = { v with pos := t.pos, ws := t.ws, issued := t.issued, replyOut := t.replyOut } := by
  subst h
  rfl

/-- PROCESS of a session completes from every sound state. -/
theorem processChunk_processed {P : Params} (hE : EngineContract P.engine) (chunk : Bytes) {s : State} (hi : Inv P s)
    (hp : s.phase = .configured) : ∃ t, processChunk P chunk s = .next t ∧ Processed P chunk s.dataIn s t := by
  obtain ⟨t, ht, hinv, hsession⟩ := processChunk_endsAs hE chunk hi
  have hrun : processSession P.engine chunk (hostView s) (stagedBytes P s) =
      (respondOk (releasedRun P chunk s).2
        { hostView s with
          len := s.len + chunk.length - released s chunk.length, es := (releasedRun P chunk s).1 },
        (stagedBytes P s ++ chunk).drop (released s chunk.length)) := by
    simp [processSession, streamSession, hp, released, releasedRun]
  rw [hrun] at hsession
  obtain ⟨hview, hstaged⟩ := Prod.mk.inj hsession
  refine ⟨t, ht, hinv, hstaged, fun hnil => ?_, eq_of_hostView hview⟩
  subst hnil
  cases ht.symm.trans (processChunk_nil P hp)
  rfl

theorem processAt_processed {P : Params} (hE : EngineContract P.engine) {n : BitVec 24} {s : State} (hi : Inv P s)
    (hp : s.phase = .configured) (hn : n.toNat ≤ s.dataIn.length) :
    ∃ t, processAt P n s = .next t ∧ Processed P (s.dataIn.take n.toNat) (s.dataIn.drop n.toNat) s t := by
  obtain ⟨t, ht, h⟩ := processChunk_processed hE (s.dataIn.take n.toNat)
    (hi.withChannels (s.dataIn.drop n.toNat) s.hostOut) hp
  exact ⟨t, by rw [processAt_of_payload P hn, ht], h.inv, h.staged, h.pos_of_nil, h.state⟩

/-- An encrypt session releases every complete block (R131). -/
theorem released_of_enc {s : State} (hd : s.dir = .enc) (k : Nat) :
    released s k = s.len + k - (s.len + k) % 16 := by
  simp [released, releaseLength, withholds, hd, reserve, down16]

/-- The answer to a PROCESS, OLEN written out (R85, R131): so many bytes as a chunk and INV1 allow fit into the word. -/
theorem reply_releasedRun {P : Params} (hE : EngineContract P.engine) {m : Bytes} {s : State} (hi : Inv P s)
    (hm : m.length < 2 ^ 24) :
    reply .ok (releasedRun P m s).2 =
      .response (BitVec.ofNat 32 (released s m.length)) :: (releasedRun P m s).2.map .output := by
  have hbound := hi.cursor.bound
  have hle : released s m.length ≤ s.len + m.length := releaseLength_le ..
  have hlen : lenBound s ≤ 16 := by unfold lenBound; split <;> omega
  rw [reply, releasedRun_length hE, responseWord_ok (by omega)]

/-- Settles O19: PROCESS leaves what `Processed` says, and what is released in an encrypt session is every complete
block (`released_of_enc`). -/
theorem processEncryptResult : Obligations.ProcessEncryptResult := by
  intro n s hi hp hd hn all total rlen r
  have hE := Config.engine_contract
  obtain ⟨t, ht, h⟩ := processAt_processed hE hi hp hn
  have hlen : (s.dataIn.take n.toNat).length = n.toNat := List.length_take_of_le hn
  have hrel : released s n.toNat = rlen := released_of_enc hd _
  have hrun : releasedRun Config.params (s.dataIn.take n.toNat) s = r := by rw [releasedRun, hlen, hrel, hd]
  have hout : r.2.length = rlen := by rw [← hrun, releasedRun_length hE, hlen, hrel]
  have hreply := reply_releasedRun hE (m := s.dataIn.take n.toNat) hi (by rw [hlen]; exact n.isLt)
  have htotal : s.len + n.toNat - rlen = total % 16 := Nat.sub_sub_self (Nat.mod_le ..)
  have hpos : t.pos = if n = 0 then s.pos else t.pos := by
    split
    · rename_i hzero
      exact h.pos_of_nil (by simp [hzero])
    · rfl
  have hstaged := h.staged
  have hstate := h.state
  rw [hlen, hrel] at hstaged hreply
  rw [hreply, hrun, hlen, hrel, htotal] at hstate
  refine ⟨t, ht, hout, hstaged, ?_⟩
  rw [← hpos]
  exact hstate

end Sys2Proof.Machine
end

section
/-! SUPPORT. PROCESS commands one after the other leave what one does with the chunks joined (41_encrypt_process.md
R133, 43_decrypt_process.md R153), and a whole padded encrypt message (42_encrypt_finish.md R140, R143): O49 and O51. -/

namespace Sys2Proof.Machine

/-! ## Answers -/

theorem saysOk_responseWord (n : Nat) : saysOk (responseWord .ok n) = true := by
  rw [saysOk, responseWord_status]
  rfl

/-- Between `l` and `l'` exactly `k` commands were answered, all of them OK. -/
def AnsweredOk (k : Nat) (l l' : List HostItem) : Prop :=
  ∃ rs, responseWords l' = responseWords l ++ rs ∧ rs.length = k ∧ ∀ w ∈ rs, saysOk w = true

theorem AnsweredOk.refl (l : List HostItem) : AnsweredOk 0 l l := ⟨[], by simp, rfl, nofun⟩

theorem answeredOk_reply (l : List HostItem) (out : Bytes) : AnsweredOk 1 l (l ++ reply .ok out) :=
  ⟨[responseWord .ok out.length], by simp, rfl, by simp [saysOk_responseWord]⟩

theorem AnsweredOk.trans {j k : Nat} {l l' l'' : List HostItem} (h : AnsweredOk j l l') (h' : AnsweredOk k l' l'') :
    AnsweredOk (j + k) l l'' := by
  obtain ⟨rs, hrs, rfl, hok⟩ := h
  obtain ⟨rs', hrs', rfl, hok'⟩ := h'
  refine ⟨rs ++ rs', by rw [hrs', hrs, List.append_assoc], List.length_append, fun w hw => ?_⟩
  exact (List.mem_append.1 hw).elim (hok w) (hok' w)

/-! ## Several commands (R133, R153) -/

/-- What is released of `total` bytes does not change when `k` of them come first: the reserve looks at the total
alone. -/
theorem releaseLength_add_releaseLength (p : Bool) {k total : Nat} (h : k ≤ total) :
    releaseLength p k + releaseLength p (total - releaseLength p k) = releaseLength p total := by
  cases p with
  | false =>
    simp only [releaseLength, reserve, down16, Bool.false_eq_true, if_false]
    omega
  | true =>
    simp only [releaseLength, reserve, down16, if_true]
    split_ifs <;> omega

/-- What `k` PROCESS commands of the session `s` that together bring the bytes `m` leave, however these are cut. -/
structure Streamed (P : Params) (m : Bytes) (k : Nat) (s t : State) : Prop where
  inv : Inv P t
  phase : t.phase = s.phase
  dir : t.dir = s.dir
  pad : t.pad = s.pad
  staged : stagedBytes P t = (stagedBytes P s ++ m).drop (released s m.length)
  engine : t.es = (releasedRun P m s).1
  output : outputBytes t.hostOut = outputBytes s.hostOut ++ (releasedRun P m s).2
  answers : AnsweredOk k s.hostOut t.hostOut

section
variable {P : Params} {m m' : Bytes} {j k : Nat} {s t u : State}

/-- No command at all leaves the session as it is. -/
theorem Streamed.refl (hE : EngineContract P.engine) (hi : Inv P s) : Streamed P [] 0 s s := by
  have hnone : released s 0 = 0 := releaseLength_of_bound (lenBound_eq s ▸ hi.cursor.bound)
  have hrun : releasedRun P [] s = (s.es, []) := by simp [releasedRun, hnone, hE.zero]
  exact ⟨hi, rfl, rfl, rfl, by simp [hnone], by rw [hrun], by simp [hrun], .refl _⟩

/-- One command is one of them. -/
theorem Processed.streamed {data : Bytes} (h : Processed P m data s t) : Streamed P m 1 s t := by
  obtain ⟨hinv, hstaged, -, hstate⟩ := h
  have hout : t.hostOut = s.hostOut ++ reply .ok (releasedRun P m s).2 := (congrArg State.hostOut hstate :)
  exact ⟨hinv, (congrArg State.phase hstate :), (congrArg State.dir hstate :), (congrArg State.pad hstate :), hstaged,
    (congrArg State.es hstate :), by simp [hout], hout ▸ answeredOk_reply _ _⟩

/-- What is released of the bytes of two groups of commands. -/
theorem Streamed.released_append (h : Streamed P m j s t) (m' : Bytes) :
    released s (m ++ m').length = released s m.length + released t m'.length := by
  have hw : withholds t = withholds s := by simp [withholds, h.dir, h.pad]
  have hlen : t.len = s.len + m.length - released s m.length := by
    simpa using congrArg List.length h.staged
  have hle : released s m.length ≤ s.len + m.length := releaseLength_le ..
  have htotal : t.len + m'.length = s.len + (m ++ m').length - releaseLength (withholds s) (s.len + m.length) := by
    rw [hlen, List.length_append]
    unfold released at hle ⊢
    omega
  rw [released, released, released, hw, htotal,
    releaseLength_add_releaseLength _ (by rw [List.length_append]; omega)]

/-- With more bytes after those of a first group of commands, what that group released comes first, and the bytes it
left staged after it. -/
theorem Streamed.append_eq (h : Streamed P m j s t) (x : Bytes) :
    stagedBytes P s ++ (m ++ x) =
      (stagedBytes P s ++ m).take (released s m.length) ++ (stagedBytes P t ++ x) := by
  rw [h.staged, ← List.append_assoc, ← List.append_assoc, List.take_append_drop]

/-- EC5 joins the run of a first group of commands and a run after it (R177). -/
theorem Streamed.transform_append (hE : EngineContract P.engine) (h : Streamed P m j s t) {x : Bytes}
    (hx : x.length % 16 = 0) :
    P.engine.transformBytes s.es s.dir ((stagedBytes P s ++ m).take (released s m.length) ++ x) =
      ((P.engine.transformBytes t.es t.dir x).1,
        (releasedRun P m s).2 ++ (P.engine.transformBytes t.es t.dir x).2) := by
  rw [hE.cut _ _ _ _ (length_take_released_mod P m s) hx, h.engine, h.dir]
  rfl

/-- What the engine makes of the bytes of two groups of commands. -/
theorem Streamed.releasedRun_append (hE : EngineContract P.engine) (h : Streamed P m j s t) (m' : Bytes) :
    releasedRun P (m ++ m') s = ((releasedRun P m' t).1, (releasedRun P m s).2 ++ (releasedRun P m' t).2) := by
  have hfirst := length_take_released P m s
  rw [releasedRun, h.append_eq, h.released_append, List.take_append, hfirst, Nat.add_sub_cancel_left,
    List.take_of_length_le (by omega), h.transform_append hE (length_take_released_mod P m' t)]
  rfl

theorem Streamed.trans (hE : EngineContract P.engine) (h : Streamed P m j s t) (h' : Streamed P m' k t u) :
    Streamed P (m ++ m') (j + k) s u := by
  have hrun := h.releasedRun_append hE m'
  refine ⟨h'.inv, h'.phase.trans h.phase, h'.dir.trans h.dir, h'.pad.trans h.pad, ?_, ?_, ?_,
    h.answers.trans h'.answers⟩
  · rw [h'.staged, h.append_eq, h.released_append, ← List.drop_drop, List.drop_left' (length_take_released ..)]
  · rw [h'.engine, hrun]
  · rw [h'.output, h.output, hrun, List.append_assoc]

/-- LEN after any number of PROCESS commands of an encrypt message: all but the complete blocks (R131). -/
theorem Streamed.len_eq_mod (h : Streamed P m j s t) (hd : s.dir = .enc) (hlen : s.len = 0) :
    t.len = m.length % 16 := by
  have hstaged := congrArg List.length h.staged
  simp only [stagedBytes_length, List.length_drop, List.length_append, released_of_enc hd, hlen] at hstaged
  omega

end

/-- PROCESS brings its payload, and consumes that alone (R90). -/
theorem processAt_streamed {P : Params} (hE : EngineContract P.engine) {n : BitVec 24} {s : State} (hi : Inv P s)
    (hp : s.phase = .configured) (hn : n.toNat ≤ s.dataIn.length) :
    ∃ t, processAt P n s = .next t ∧ Streamed P (s.dataIn.take n.toNat) 1 s t ∧
      t.dataIn = s.dataIn.drop n.toNat := by
  obtain ⟨t, ht, h⟩ := processAt_processed hE hi hp hn
  exact ⟨t, ht, h.streamed, (congrArg State.dataIn h.state :)⟩

/-- Settles O49: both ways bring the same bytes, and what they leave does not depend on the cut (`Streamed.trans`). -/
theorem chunkingIsInvisible : Obligations.ChunkingIsInvisible := by
  intro n1 n2 n s hi hp hsum hn
  have hE := Config.engine_contract
  obtain ⟨t1, ht1, h1, hdata1⟩ := processAt_streamed hE (n := n1) hi hp (by omega)
  obtain ⟨t2, ht2, h2, hdata2⟩ := processAt_streamed hE (n := n2) h1.inv (h1.phase.trans hp)
    (by rw [hdata1, List.length_drop]; omega)
  obtain ⟨u, hu, h, hdata⟩ := processAt_streamed hE hi hp hn
  have hboth := h1.trans hE h2
  rw [hdata1, ← List.take_add, ← hsum] at hboth
  have hstaged : stagedBytes Config.params t2 = stagedBytes Config.params u := hboth.staged.trans h.staged.symm
  refine ⟨t1, t2, u, ht1, ht2, hu, hboth.output.trans h.output.symm, hboth.engine.trans h.engine.symm, ?_, ?_,
    hstaged⟩
  · simpa using congrArg List.length hstaged
  · rw [hdata2, hdata1, hdata, List.drop_drop, hsum]

/-- Any number of PROCESS commands completes in a session, and leaves what one with all chunks joined leaves. -/
theorem feed_streamed {P : Params} (hE : EngineContract P.engine) (cs : List Bytes) {s : State} (hi : Inv P s)
    (hp : s.phase = .configured) : ∃ t, feed P cs s = .next t ∧ Streamed P cs.flatten cs.length s t := by
  induction cs generalizing s with
  | nil => exact ⟨s, rfl, .refl hE hi⟩
  | cons c cs ih =>
    obtain ⟨t, ht, hprocessed⟩ := processChunk_processed hE c hi hp
    have h := hprocessed.streamed
    obtain ⟨u, hu, h'⟩ := ih h.inv (h.phase.trans hp)
    refine ⟨u, by rw [feed, ht, andThen_next, hu], ?_⟩
    rw [List.flatten_cons, List.length_cons, Nat.add_comm]
    exact h.trans hE h'

/-! ## A padded encrypt message (R140, R143) -/

/-- FINISH of a padded encrypt session outputs the transform of the staged bytes and their pad. -/
theorem finishAt_paddedEncrypt {P : Params} (hE : EngineContract P.engine) {s : State} (hi : Inv P s)
    (hp : s.phase = .configured) (hd : s.dir = .enc) (hpad : s.pad = true) :
    ∃ t, finishAt P s = .next t ∧ Inv P t ∧ MessageStart .enc true t ∧
      ∃ out, P.engine.transformBytes s.es .enc (stagedBytes P s ++ padBytes (padLength s.len)) = (t.es, out) ∧
        t.hostOut = s.hostOut ++ reply .ok out := by
  obtain ⟨t, ht, hinv, hsession⟩ := finishAt_endsAs hE hi
  have hflush : finishSession P.engine (hostView s) (stagedBytes P s) =
      flushSession P.engine (hostView s) (stagedBytes P s ++ padBytes (padLength s.len)) := by
    simp [finishSession, finishEncryptSession, hp, hd, hpad]
  have hview := congrArg Prod.fst (hsession.trans hflush)
  refine ⟨t, ht, hinv, ⟨(congrArg State.phase hview :).trans hp, (congrArg State.dir hview :).trans hd,
    (congrArg State.pad hview :).trans hpad, (congrArg State.len hview :)⟩, _, ?_, (congrArg State.hostOut hview :)⟩
  exact Prod.ext (congrArg State.es hview :).symm rfl

/-- The staged bytes and their pad are whole blocks (R141). -/
theorem stagedBytes_append_pad_mod (P : Params) (s : State) :
    (stagedBytes P s ++ padBytes (padLength s.len)).length % 16 = 0 := by
  rw [List.length_append, stagedBytes_length, padBytes_length]
  exact len_add_padLength_mod s.len

/-- Settles O51: the chunks leave what one chunk with all of them would (`feed_streamed`), and FINISH transforms the
rest and the pad (`finishAt_paddedEncrypt`); EC5 joins the two (`Streamed.transform_append`). -/
theorem paddedMessageEncrypts : Obligations.PaddedMessageEncrypts := by
  intro P cs s hE hi ⟨hp, hd, hpad, hlen⟩ m p r
  obtain ⟨t, ht, h⟩ := feed_streamed hE cs hi hp
  obtain ⟨u, hu, hinv, hstart, out, hrun, hout⟩ :=
    finishAt_paddedEncrypt hE h.inv (h.phase.trans hp) (h.dir.trans hd) (h.pad.trans hpad)
  have hnone : stagedBytes P s = [] := stagedBytes_of_len_zero P hlen
  have hpadLength : padLength t.len = p := by
    rw [padLength, h.len_eq_mod hd hlen, Nat.mod_mod]
  have hr : r = (u.es, (releasedRun P m s).2 ++ out) := by
    have hjoin := h.transform_append hE (stagedBytes_append_pad_mod P t)
    rw [← h.append_eq, hnone, List.nil_append, h.dir, hd, hrun, hpadLength] at hjoin
    exact hjoin
  have hlength : r.2.length = 16 * (m.length / 16 + 1) := by
    rw [hE.length _ _ _ (by simp [p]; omega)]
    simp only [List.length_append, List.length_replicate, p]
    omega
  refine ⟨u, by rw [message, ht, andThen_next, hu], ?_, by rw [hr], hlength, hstart, hinv,
    h.answers.trans (hout ▸ answeredOk_reply _ out)⟩
  rw [hout, outputBytes_append, outputBytes_reply, h.output, hr, List.append_assoc]

end Sys2Proof.Machine
end

section
/-! SUPPORT. FINISH of an encrypt session, and the answer UnalignedInput in either direction (42_encrypt_finish.md R140
to R142, 60_exceptions.md R193): O23, O24, O25 and O29. -/

namespace Sys2Proof.Machine

/-! ## The pad (R142) -/

theorem padLength_of_lt {l : Nat} (h : l < 16) : padLength l = 16 - l := by rw [padLength, Nat.mod_eq_of_lt h]

/-- A pad length fits into the byte that carries it. -/
theorem toNat_of_mem_padBytes {p : Nat} (hp : p ≤ 16) {b : Byte} (hb : b ∈ padBytes p) : b.toNat = p := by
  rw [List.eq_of_mem_replicate hb, BitVec.toNat_ofNat, Nat.mod_eq_of_lt (by omega)]

/-- Settles O29: less than a block is staged (`padLength_of_lt`), and the pad length fits into a byte
(`toNat_of_mem_padBytes`). -/
theorem padGeneratorTable : Obligations.PadGeneratorTable := by
  intro l hl
  rw [padLength_of_lt hl]
  exact ⟨rfl, fun _ hb => toNat_of_mem_padBytes (Nat.sub_le ..) hb⟩

/-! ## FINISH by direction (R116) -/

theorem finishAt_of_enc (P : Params) {s : State} (hp : s.phase = .configured) (hd : s.dir = .enc) :
    finishAt P s = finishEncrypt P s := by simp [finishAt, hp, hd]

theorem finishAt_of_dec (P : Params) {s : State} (hp : s.phase = .configured) (hd : s.dir = .dec) :
    finishAt P s = finishDecrypt P s := by simp [finishAt, hp, hd]

/-! ## UnalignedInput (R140, R160, R193) -/

theorem finishEncrypt_of_unaligned (P : Params) {s : State} (hpad : s.pad = false) (hlen : s.len % 16 ≠ 0) :
    finishEncrypt P s = .next (raiseFinish P .unalignedInput s) := by simp [finishEncrypt, hpad, hlen]

theorem finishDecrypt_of_unaligned (P : Params) {s : State} (hlen : s.len % 16 ≠ 0) :
    finishDecrypt P s = .next (raiseFinish P .unalignedInput s) := by
  have hstaged : s.len ≠ 0 := fun h => hlen (by rw [h])
  rw [finishDecrypt, if_neg hstaged, if_pos hlen]

/-- Settles O25: in either direction the check comes before the engine request (`finishEncrypt_of_unaligned`,
`finishDecrypt_of_unaligned`). -/
theorem finishUnalignedInput : Obligations.FinishUnalignedInput := by
  intro s hp hunpadded hlen
  refine ⟨raiseFinish Config.params .unalignedInput s, ?_, rfl⟩
  show finishAt Config.params s = _
  cases hd : s.dir with
  | enc =>
    have hpad : s.pad = false := by simpa [hd] using hunpadded
    rw [finishAt_of_enc _ hp hd, finishEncrypt_of_unaligned _ hpad hlen]
  | dec => rw [finishAt_of_dec _ hp hd, finishDecrypt_of_unaligned _ hlen]

/-! ## The end of an encrypt message (R140, R141) -/

/-- What the end of an encrypt message leaves, but for the workspace: the transform of what is staged is output. -/
theorem flushed_eq {P : Params} (hE : EngineContract P.engine) {s : State} {r : EngineState × Bytes} (hw : s.ws.wf)
    (hm : s.len % 16 = 0) (hr : P.engine.transformBytes s.es .enc (stagedBytes P s) = r) :
    flushed P s = { s with
      pos := 0, len := 0, ws := (flushed P s).ws, es := r.1, hostOut := s.hostOut ++ reply .ok r.2
      issued := s.issued ++ [.transform .enc (BitVec.ofNat 32 (dataAddr P s.pos)) (BitVec.ofNat 32 s.len)]
      replyOut := s.replyOut ++ [BitVec.ofNat 32 s.len] } := by
  rw [← hr, ← transformed_all hE .enc hw hm]
  rfl

/-- With nothing staged only the request and its answer are left, and the zeroization (R176). -/
theorem flushed_of_len_zero {P : Params} (hE : EngineContract P.engine) {s : State} (hlen : s.len = 0) :
    flushed P s = respondOk [] (emptyCursor P { s with
      issued := s.issued ++ [.transform .enc (BitVec.ofNat 32 (dataAddr P s.pos)) 0]
      replyOut := s.replyOut ++ [0] }) := by
  rw [flushed, hlen, readBytes_zero, transformed_zero hE]
  rfl

/-- Settles O24: the message ends without a pad (`flushEncrypt_eq`), with nothing staged (`flushed_of_len_zero`). -/
theorem finishEncryptUnpaddedEmpty : Obligations.FinishEncryptUnpaddedEmpty := by
  intro s hp hd hpad hlen
  have hfinish : finishEncrypt Config.params s = flushEncrypt Config.params s := by simp [finishEncrypt, hpad, hlen]
  refine ⟨flushed Config.params s, ?_, flushed_of_len_zero Config.engine_contract hlen⟩
  calc finishAt Config.params s
      = flushEncrypt Config.params s := (finishAt_of_enc _ hp hd).trans hfinish
    _ = .next (flushed Config.params s) := flushEncrypt_eq s (by rw [hlen]) (.inl hlen)

/-- FINISH of a padded encrypt session with room for its pad stores the pad, then ends the message. -/
theorem finishEncrypt_of_padded {P : Params} {s : State} (hpad : s.pad = true)
    (hroom : s.pos + s.len + padLength s.len ≤ P.cap) : finishEncrypt P s = .next (flushed P (padded P s)) := by
  rw [finishEncrypt, if_pos hpad, writePad_eq s hroom, andThen_next,
    flushEncrypt_eq _ (len_add_padLength_mod s.len) (.inr (by simpa [padded, Nat.add_assoc] using hroom))]

/-- Settles O23: INV1 and INV5 leave room for the pad (`finishEncrypt_of_padded`), which makes one block of the staged
bytes (`len_add_padLength`); that block is what is transformed and output (`flushed_eq`). -/
theorem finishEncryptPadsToOneBlock : Obligations.FinishEncryptPadsToOneBlock := by
  intro s hi hp hd hpad p r
  have hE := Config.engine_contract
  have hbound : s.len < 16 := Nat.lt_succ_of_le (by simpa [lenBound, hd] using hi.cursor.bound)
  have hblock : s.len + padLength s.len = 16 := len_add_padLength hbound
  have hroom : s.pos + s.len + padLength s.len ≤ Config.params.cap := by
    have := hi.cursor.room
    omega
  have hlen : (padded Config.params s).len = 16 := hblock
  have hstaged : stagedBytes Config.params (padded Config.params s) =
      stagedBytes Config.params s ++ List.replicate p (BitVec.ofNat 8 p) := by
    rw [padded_eq_appended, stagedBytes_appended _ hi.workspace.wf, padLength_of_lt hbound]
    rfl
  have hrun :
      Config.params.engine.transformBytes s.es .enc (stagedBytes Config.params (padded Config.params s)) = r := by
    rw [hstaged]
  have hout : r.2.length = 16 := by
    rw [← hrun, hE.length] <;> rw [stagedBytes_length, hlen]
  have hflushed := flushed_eq hE (s := padded Config.params s) (writeBytes_wf _ _ hi.workspace.wf) (by rw [hlen]) hrun
  rw [reply, hout, hlen, responseWord_ok (by decide)] at hflushed
  exact ⟨_, (finishAt_of_enc _ hp hd).trans (finishEncrypt_of_padded hpad hroom), hout, hflushed⟩

end Sys2Proof.Machine
end

section
/-! SUPPORT. One PROCESS of a decrypt session in closed form (43_decrypt_process.md R150 to R152): O20. -/

namespace Sys2Proof.Machine

/-- Whole blocks are released, less one of them where a padded session has nothing beyond it (R151, R152). -/
theorem releaseLength_eq_sub (p : Bool) (total : Nat) :
    releaseLength p total = total - if p = true ∧ total % 16 = 0 then 16 else total % 16 := by
  unfold releaseLength reserve down16
  cases p with
  | false => simp
  | true =>
    simp only [if_true, true_and, ne_eq, ite_not]
    split <;> omega

/-- A decrypt session releases nothing for an empty chunk, since INV1 lets no more be staged than it withholds, and
otherwise all but the reserve (R152). -/
theorem released_of_dec {P : Params} {s : State} (hi : Inv P s) (hd : s.dir = .dec) (k : Nat) :
    released s k = if k = 0 then 0 else
      s.len + k - if s.pad = true ∧ (s.len + k) % 16 = 0 then 16 else (s.len + k) % 16 := by
  split
  · rename_i hk
    subst hk
    exact releaseLength_of_bound (lenBound_eq s ▸ hi.cursor.bound)
  · rw [released, releaseLength_eq_sub, show withholds s = s.pad by simp [withholds, hd]]

/-- What PROCESS leaves, written out for the number of bytes it releases: OLEN, output, staged bytes and state. -/
theorem Processed.result {P : Params} (hE : EngineContract P.engine) {n : BitVec 24} {s t : State} (hi : Inv P s)
    (hn : n.toNat ≤ s.dataIn.length) (h : Processed P (s.dataIn.take n.toNat) (s.dataIn.drop n.toNat) s t) {out : Nat}
    (hrel : released s n.toNat = out) {r : EngineState × Bytes}
    (hr : P.engine.transformBytes s.es s.dir ((stagedBytes P s ++ s.dataIn.take n.toNat).take out) = r) :
    r.2.length = out ∧ stagedBytes P t = (stagedBytes P s ++ s.dataIn.take n.toNat).drop out ∧
      t = { s with
        pos := if n = 0 then s.pos else t.pos, len := s.len + n.toNat - out, ws := t.ws, es := r.1
        dataIn := s.dataIn.drop n.toNat
        hostOut := s.hostOut ++ .response (BitVec.ofNat 32 out) :: r.2.map .output
        issued := t.issued, replyOut := t.replyOut } := by
  have hlen : (s.dataIn.take n.toNat).length = n.toNat := List.length_take_of_le hn
  have hrun : releasedRun P (s.dataIn.take n.toNat) s = r := by rw [releasedRun, hlen, hrel, hr]
  have hout := releasedRun_length hE (s.dataIn.take n.toNat) s
  have hreply := reply_releasedRun hE (m := s.dataIn.take n.toNat) hi (by rw [hlen]; exact n.isLt)
  have hpos : (if n = 0 then s.pos else t.pos) = t.pos :=
    ite_eq_right_iff.2 fun hzero => (h.pos_of_nil (by simp [hzero])).symm
  have hstaged := h.staged
  have hstate := h.state
  rw [hlen, hrel] at hout hstaged hreply hstate
  rw [hreply] at hstate
  rw [hrun] at hout hstate
  refine ⟨hout, hstaged, ?_⟩
  rw [hpos]
  exact hstate

/-- Settles O20: PROCESS leaves what `Processed` says, and what is released in a decrypt session is all but the reserve
(`released_of_dec`), in whole blocks (`releaseLength_mod`). -/
theorem processDecryptResult : Obligations.ProcessDecryptResult := by
  intro n s hi hp hd hn all total plen out r
  have hE := Config.engine_contract
  have hzero : n.toNat = 0 ↔ n = 0 := by simp [BitVec.toNat_eq]
  have hrel : released s n.toNat = out := by simp only [released_of_dec hi hd, hzero, out, plen, total]
  have hkept : s.len + n.toNat - out = if n = 0 then s.len else plen := by
    simp only [out, plen, total, ← hzero]
    split
    · omega
    · split <;> omega
  obtain ⟨t, ht, h⟩ := processAt_processed hE hi hp hn
  obtain ⟨hout, hstaged, hstate⟩ := h.result hE hi hn hrel (r := r) (by rw [hd])
  exact ⟨t, ht, hout, hrel ▸ releaseLength_mod .., hstaged, hkept ▸ hstate⟩

end Sys2Proof.Machine
end

section
/-! SUPPORT. FINISH of a decrypt session (44_decrypt_finish.md R160 to R163): the pad check decides the PKCS#7 condition,
an empty message asks nothing of the engine, a padded one is stripped or answered BadPadding, and decryption undoes
encryption (R164): O26, O27, O28 and O52. -/

namespace Sys2Proof.Machine

/-! ## The pad check (R161) -/

/-- What is ORed together is 0 exactly when every part is. -/
theorem foldl_or_eq_zero_iff {α : Type} (l : List α) (c : α → Prop) [DecidablePred c] (f : α → Byte) (acc : Byte) :
    l.foldl (fun acc k => if c k then acc ||| f k else acc) acc = 0 ↔ acc = 0 ∧ ∀ k ∈ l, c k → f k = 0 := by
  induction l generalizing acc with
  | nil => simp
  | cons k l ih =>
    rw [List.foldl_cons, ih, List.forall_mem_cons]
    by_cases hc : c k
    · simp [hc, BitVec.or_eq_zero_iff, and_assoc]
    · simp [hc]

/-- A lane is 0 where its byte is the pad length. -/
theorem padLane_eq_zero_iff (b : Bytes) (i : Nat) : padLane b i = 0 ↔ b.getD (b.length - i) 0 = padByte b :=
  BitVec.xor_eq_zero_iff

/-- No lane at or below the pad length differs from it, of the sixteen there are. -/
theorem padAcc_eq_zero_iff {b : Bytes} (h : (padByte b).toNat ≤ 16) :
    padAcc b = 0 ↔ ∀ j < (padByte b).toNat, b.getD (b.length - 1 - j) 0 = padByte b := by
  unfold padAcc
  rw [foldl_or_eq_zero_iff (List.range 16) (fun k => k + 1 ≤ (padByte b).toNat) fun k => padLane b (k + 1)]
  simp only [true_and, List.mem_range, padLane_eq_zero_iff, Nat.add_comm _ 1, Nat.sub_add_eq]
  exact ⟨fun hall j hj => hall j (by omega) (by omega), fun hall j _ hj => hall j (by omega)⟩

/-- With a whole block there, the range test is that of the pad length alone (C7). -/
theorem padBad_eq_false_iff {b : Bytes} (h : 16 ≤ b.length) :
    padBad b = false ↔ 1 ≤ (padByte b).toNat ∧ (padByte b).toNat ≤ 16 := by
  simp only [padBad, Bool.or_eq_false_iff, decide_eq_false_iff_not]
  omega

/-- The check of R161 is the PKCS#7 condition. -/
theorem padOk_iff {b : Bytes} (h : 16 ≤ b.length) :
    padOk b = true ↔ 1 ≤ (padByte b).toNat ∧ (padByte b).toNat ≤ 16 ∧
      ∀ j < (padByte b).toNat, b.getD (b.length - 1 - j) 0 = padByte b := by
  rw [padOk, Bool.and_eq_true, Bool.not_eq_true', beq_iff_eq, padBad_eq_false_iff h, and_assoc]
  exact and_congr_right fun _ => and_congr_right padAcc_eq_zero_iff

/-- Settles O28: a sequence of whole blocks that is not empty has a block (`padOk_iff`). -/
theorem padCheckIsPkcs7 : Obligations.PadCheckIsPkcs7 := by
  intro b hm hne
  have hpos := List.length_pos_of_ne_nil hne
  exact padOk_iff (by omega)

/-- The check of one block, with its bytes as numbers. -/
theorem padOk_block_iff {b : Bytes} (h : b.length = 16) :
    padOk b = true ↔ 1 ≤ (b.getD 15 0).toNat ∧ (b.getD 15 0).toNat ≤ 16 ∧
      ∀ j < (b.getD 15 0).toNat, (b.getD (15 - j) 0).toNat = (b.getD 15 0).toNat := by
  have hlast : padByte b = b.getD 15 0 := by rw [padByte, h]
  simp only [padOk_iff h.ge, hlast, h, BitVec.toNat_inj]

/-- Each of the last `p` bytes is `p` where the pad generator's pad comes last (R142). -/
theorem getD_append_padBytes (x : Bytes) {p j : Nat} (hj : j < p) :
    (x ++ padBytes p).getD ((x ++ padBytes p).length - 1 - j) 0 = BitVec.ofNat 8 p := by
  rw [List.length_append, padBytes_length, List.getD_append_right _ _ _ _ (by omega), padBytes,
    List.getD_replicate _ (by omega)]

theorem padByte_append_padBytes (x : Bytes) {p : Nat} (hp : 1 ≤ p) : padByte (x ++ padBytes p) = BitVec.ofNat 8 p :=
  getD_append_padBytes x hp

/-- R142, R161: the check passes what the pad generator makes. -/
theorem padOk_append_padBytes {x : Bytes} {p : Nat} (hp : 1 ≤ p) (hle : p ≤ 16) (h : 16 ≤ (x ++ padBytes p).length) :
    padOk (x ++ padBytes p) = true := by
  have hbyte : (padByte (x ++ padBytes p)).toNat = p := by
    rw [padByte_append_padBytes x hp, BitVec.toNat_ofNat, Nat.mod_eq_of_lt (by omega)]
  rw [padOk_iff h, hbyte]
  exact ⟨hp, hle, fun j hj => (getD_append_padBytes x hj).trans (padByte_append_padBytes x hp).symm⟩

/-! ## An empty message (R160(a)) -/

/-- Settles O26: the empty case comes first, before alignment and the engine request. -/
theorem finishDecryptEmpty : Obligations.FinishDecryptEmpty := by
  intro s hp hd hlen
  refine ⟨respondOk [] (emptyCursor Config.params s), ?_, rfl⟩
  calc finishAt Config.params s
      = finishDecrypt Config.params s := finishAt_of_dec _ hp hd
    _ = .next (respondOk [] (emptyCursor Config.params s)) := if_pos hlen

/-! ## A padded message with its last block staged (R160, R161, R163) -/

/-- The answer to FINISH of a padded decrypt session whose transformed bytes are `b`: its status and its output. -/
def unpad (b : Bytes) : Status × Bytes :=
  if padOk b then (.ok, b.take (b.length - (padByte b).toNat)) else (.badPadding, [])

theorem unpad_of_padOk {b : Bytes} (h : padOk b = true) :
    unpad b = (.ok, b.take (b.length - (padByte b).toNat)) := if_pos h

theorem unpad_of_not_padOk {b : Bytes} (h : ¬ padOk b = true) : unpad b = (.badPadding, []) := if_neg h

/-- The pad generator's pad is stripped (R163). -/
theorem unpad_append_padBytes {x : Bytes} {p : Nat} (hp : 1 ≤ p) (hle : p ≤ 16) (h : 16 ≤ (x ++ padBytes p).length) :
    unpad (x ++ padBytes p) = (.ok, x) := by
  rw [unpad_of_padOk (padOk_append_padBytes hp hle h), padByte_append_padBytes x hp, BitVec.toNat_ofNat,
    Nat.mod_eq_of_lt (by omega), List.length_append, padBytes_length, Nat.add_sub_cancel, List.take_left]

theorem releaseDecrypt_of_padded (P : Params) (off n : Nat) {s : State} (hpad : s.pad = true) :
    releaseDecrypt P off n s = respond (unpad (readBytes s.ws off n)).1 (unpad (readBytes s.ws off n)).2
      (emptyCursor P s) := by
  rw [releaseDecrypt, if_pos hpad, unpad, readBytes_length, readBytes_take _ _ _ _ (Nat.sub_le ..)]
  split <;> rfl

/-- FINISH of a padded decrypt session with a block staged: the block is transformed, then checked. -/
theorem finishAt_paddedDecrypt {P : Params} (hE : EngineContract P.engine) {s : State} (hi : Inv P s)
    (hp : s.phase = .configured) (hd : s.dir = .dec) (hpad : s.pad = true) (hlen : s.len = 16)
    {r : EngineState × Bytes} (hr : P.engine.transformBytes s.es .dec (stagedBytes P s) = r) :
    finishAt P s = .next (respond (unpad r.2).1 (unpad r.2).2
      (emptyCursor P (transformed P .dec (dataAddr P s.pos) s.len s))) := by
  have hm : s.len % 16 = 0 := by rw [hlen]
  have hlo : P.base ≤ dataAddr P s.pos := Nat.le_add_right ..
  have hhi : dataAddr P s.pos + s.len ≤ P.base + P.cap := by
    rw [dataAddr, Nat.add_assoc]
    exact Nat.add_le_add_left hi.cursor.fit _
  rw [finishAt_of_dec P hp hd, finishDecrypt, if_neg (by omega), if_neg (by omega),
    serveTransform_eq s hm (.inr ⟨hlo, hhi⟩), andThen_next, releaseDecrypt_of_padded, ← hr,
    ← transformed_all hE .dec hi.workspace.wf hm]
  exact hpad

/-- Settles O27: the staged block is transformed and checked (`finishAt_paddedDecrypt`), and the check is the PKCS#7
condition (`padOk_block_iff`). -/
theorem finishDecryptChecksPadding : Obligations.FinishDecryptChecksPadding := by
  intro s hi hp hd hpad hlen r p good
  have hE := Config.engine_contract
  have hout : r.2.length = 16 := by rw [hE.length] <;> rw [stagedBytes_length, hlen]
  have hbyte : (padByte r.2).toNat = p := by rw [padByte, hout]
  have hgood : padOk r.2 = true ↔ good := padOk_block_iff hout
  refine ⟨_, finishAt_paddedDecrypt hE hi hp hd hpad hlen rfl, fun h => ?_, fun h => ?_, ?_⟩
  · show s.hostOut ++ reply (unpad r.2).1 (unpad r.2).2 = _
    rw [unpad_of_padOk (hgood.2 h), hbyte, hout, reply, List.length_take_of_le (by omega), responseWord_ok (by omega)]
  · show s.hostOut ++ reply (unpad r.2).1 (unpad r.2).2 = _
    rw [unpad_of_not_padOk (mt hgood.1 h)]
    rfl
  · have hes : (transformed Config.params .dec (dataAddr Config.params s.pos) s.len s).es = r.1 := rfl
    rw [← hes, hlen]
    rfl

/-! ## The round trip (R164) -/

section
variable {P : Params} {m : Bytes} {k : Nat} {s t : State}

/-- Of a padded decrypt message of whole blocks the last is withheld (R151). -/
theorem Streamed.len_of_blocks (h : Streamed P m k s t) (hi : Inv P s) (hstart : MessageStart .dec true s)
    (hm : m.length % 16 = 0) (hne : m ≠ []) : t.len = 16 := by
  obtain ⟨-, hd, hpad, hlen⟩ := hstart
  have hpos := List.length_pos_of_ne_nil hne
  have hrel : released s m.length = m.length - 16 := by
    rw [released_of_dec hi hd, if_neg hpos.ne', hlen, Nat.zero_add, if_pos ⟨hpad, hm⟩]
  have hstaged := congrArg List.length h.staged
  rw [hrel, stagedBytes_of_len_zero P hlen, stagedBytes_length, List.length_drop, List.nil_append] at hstaged
  omega

/-- The transform of a message so far, whole blocks all of it, is what was released and that of the staged bytes. -/
theorem Streamed.transform_eq (hE : EngineContract P.engine) (h : Streamed P m k s t) (hlen : s.len = 0)
    (hm : t.len % 16 = 0) :
    (P.engine.transformBytes s.es s.dir m).2 =
      (releasedRun P m s).2 ++ (P.engine.transformBytes t.es t.dir (stagedBytes P t)).2 := by
  have hnone := stagedBytes_of_len_zero P hlen
  have hsplit := h.append_eq []
  have hjoin := h.transform_append hE (x := stagedBytes P t) (by rwa [stagedBytes_length])
  rw [hnone, List.append_nil, List.append_nil, List.nil_append] at hsplit
  rw [hnone, List.nil_append, ← hsplit] at hjoin
  rw [hjoin]

end

/-- A sequence cut in two ways, the second no nearer to its start: the bytes between the cuts. -/
theorem exists_of_append_eq_append {a b x c : Bytes} (h : a ++ b = x ++ c) (hle : c.length ≤ b.length) :
    ∃ y, x = a ++ y ∧ b = y ++ c := by
  rcases List.append_eq_append_iff.1 h with hy | ⟨z, rfl, rfl⟩
  · exact hy
  · obtain rfl : z = [] := by simpa using hle
    exact ⟨[], by simp, rfl⟩

/-- A padded decrypt message of whole blocks whose transform ends in a pad, however it is cut: what was released comes
first, then what FINISH leaves of the withheld block. -/
theorem message_paddedDecrypt {P : Params} (hE : EngineContract P.engine) {ds : List Bytes} {s : State} (hi : Inv P s)
    (hstart : MessageStart .dec true s) (hm : ds.flatten.length % 16 = 0) (hne : ds.flatten ≠ []) {x : Bytes} {p : Nat}
    (hp : 1 ≤ p) (hle : p ≤ 16) (hx : (P.engine.transformBytes s.es .dec ds.flatten).2 = x ++ padBytes p) :
    ∃ t, message P ds s = .next t ∧ outputBytes t.hostOut = outputBytes s.hostOut ++ x ∧
      AnsweredOk (ds.length + 1) s.hostOut t.hostOut := by
  obtain ⟨hphase, hd, hpad, hlen⟩ := hstart
  obtain ⟨t, ht, h⟩ := feed_streamed hE ds hi hphase
  have htlen : t.len = 16 := h.len_of_blocks hi ⟨hphase, hd, hpad, hlen⟩ hm hne
  have htd : t.dir = .dec := h.dir.trans hd
  have hjoin := h.transform_eq hE hlen (by rw [htlen])
  rw [hd, hx, htd] at hjoin
  have hblock : (P.engine.transformBytes t.es .dec (stagedBytes P t)).2.length = 16 := by
    rw [hE.length] <;> rw [stagedBytes_length, htlen]
  obtain ⟨y, rfl, hy⟩ := exists_of_append_eq_append hjoin.symm (by rw [padBytes_length, hblock]; exact hle)
  have hfinish := finishAt_paddedDecrypt hE h.inv (h.phase.trans hphase) htd (h.pad.trans hpad) htlen rfl
  rw [hy] at hblock
  rw [hy, unpad_append_padBytes hp hle hblock.ge] at hfinish
  refine ⟨_, by rw [message, ht, andThen_next, hfinish], ?_, h.answers.trans (answeredOk_reply _ y)⟩
  simp [h.output]

/-- Settles O52: the ciphertext is the transform of the message and its pad (O51), whole blocks of it, at least one;
the inverse transform gives these back (EC6), and the decrypt session strips the pad (`message_paddedDecrypt`). -/
theorem decryptOfEncryptIsTheMessage : Obligations.DecryptOfEncryptIsTheMessage := by
  intro P cs ds s s' t hE hi hstart hi' hstart' hkey hcv ht hds
  obtain ⟨u, hu, hout, -, hlength, -⟩ := paddedMessageEncrypts P cs s hE hi hstart
  cases ht.symm.trans hu
  have hcipher := List.append_cancel_left (hds.symm.trans hout)
  have hblocks : ds.flatten.length = 16 * (cs.flatten.length / 16 + 1) := by rw [hcipher, hlength]
  refine message_paddedDecrypt hE hi' hstart' (by omega) (List.ne_nil_of_length_pos (by omega))
    (p := 16 - cs.flatten.length % 16) (by omega) (by omega) ?_
  rw [hcipher]
  exact (hE.undo s.es s'.es _ (by rw [List.length_append, List.length_replicate]; omega) hkey hcv).1

end Sys2Proof.Machine
end

section
/-! SUPPORT. Engines in the CBC structure (45_engine_port.md R181): block by block, then over a sequence of whole blocks,
for both directions at once; and with it that they meet the engine contract (R173 to R179). -/

namespace Sys2Proof.Machine

/-! ## One block -/

/-- One block in one direction from the chaining value `cv`: the next chaining value and the output block (R181). -/
def cbcBlock (E : Equiv.Perm Block) (d : Dir) (cv b : Block) : Block × Block :=
  match d with
  | .enc => (E (xorBlock b cv), E (xorBlock b cv))
  | .dec => (b, xorBlock (E.symm b) cv)

/-- Decryption takes the output block back to the input block and chains on the same value. -/
theorem cbcBlock_dec_enc (E : Equiv.Perm Block) (cv b : Block) :
    cbcBlock E .dec cv (cbcBlock E .enc cv b).2 = ((cbcBlock E .enc cv b).1, b) := by
  simp [cbcBlock]

/-! ## Whole blocks -/

theorem cbc_zero (E : Equiv.Perm Block) (d : Dir) (cv : Block) (x : Bytes) : cbc E d 0 cv x = (cv, []) := by
  cases d <;> rfl

/-- A run is its first block, then the rest from the chaining value that block leaves. -/
theorem cbc_block_append (E : Equiv.Perm Block) (d : Dir) (m : Nat) (cv b : Block) (x : Bytes) :
    cbc E d (m + 1) cv (b.1 ++ x) =
      ((cbc E d m (cbcBlock E d cv b).1 x).1, (cbcBlock E d cv b).2.1 ++ (cbc E d m (cbcBlock E d cv b).1 x).2) := by
  have hfirst : fit 16 ((b.1 ++ x).take 16) = b := by rw [List.take_left' b.2, fit_self]
  have hrest : (b.1 ++ x).drop 16 = x := List.drop_left' b.2
  cases d <;> simp only [cbc, cbcEncrypt, cbcDecrypt, cbcBlock, hfirst, hrest]

/-- A sequence of at least one whole block has a first block. -/
theorem exists_block_append {m : Nat} {x : Bytes} (h : x.length = 16 * (m + 1)) :
    ∃ (b : Block) (x' : Bytes), x = b.1 ++ x' ∧ x'.length = 16 * m :=
  ⟨⟨x.take 16, by rw [List.length_take]; omega⟩, x.drop 16, (List.take_append_drop ..).symm,
    by rw [List.length_drop]; omega⟩

/-- A run cut after `m` blocks: the second part goes on from the chaining value of the first (R177). -/
theorem cbc_append (E : Equiv.Perm Block) (d : Dir) {m : Nat} (n : Nat) (cv : Block) {x : Bytes} (z : Bytes)
    (hx : x.length = 16 * m) :
    cbc E d (m + n) cv (x ++ z) =
      ((cbc E d n (cbc E d m cv x).1 z).1, (cbc E d m cv x).2 ++ (cbc E d n (cbc E d m cv x).1 z).2) := by
  induction m generalizing cv x with
  | zero =>
    obtain rfl : x = [] := List.length_eq_zero_iff.1 hx
    simp [cbc_zero]
  | succ m ih =>
    obtain ⟨b, x, rfl, hrest⟩ := exists_block_append hx
    rw [List.append_assoc, Nat.add_right_comm, cbc_block_append, cbc_block_append, ih _ hrest, List.append_assoc]

/-- Decryption takes the output of an encryption back to its input and ends in the same chaining value (R178). -/
theorem cbc_dec_enc (E : Equiv.Perm Block) {m : Nat} (cv : Block) {x : Bytes} (hx : x.length = 16 * m) :
    cbc E .dec m cv (cbc E .enc m cv x).2 = ((cbc E .enc m cv x).1, x) := by
  induction m generalizing cv x with
  | zero =>
    obtain rfl : x = [] := List.length_eq_zero_iff.1 hx
    simp [cbc_zero]
  | succ m ih =>
    obtain ⟨b, x, rfl, hrest⟩ := exists_block_append hx
    rw [cbc_block_append, cbc_block_append, cbcBlock_dec_enc, ih _ hrest]

/-! ## The engine -/

section
variable (E : Bytes → Equiv.Perm Block) (es : EngineState) (d : Dir)

theorem cbcEngine_transformBytes (x : Bytes) :
    (cbcEngine E).transformBytes es d x =
      ({ es with cv := (cbc (E es.key) d (x.length / 16) es.cv x).1 },
        (cbc (E es.key) d (x.length / 16) es.cv x).2) := rfl

/-- Of whole blocks the output is as long as the input (R173). -/
theorem cbcEngine_length {x : Bytes} (hx : x.length % 16 = 0) :
    ((cbcEngine E).transformBytes es d x).2.length = x.length := by
  rw [cbcEngine_transformBytes, cbc_length]
  omega

/-- EC5 for an engine of the CBC structure (R177). -/
theorem cbcEngine_append {x1 : Bytes} (x2 : Bytes) (hx : x1.length % 16 = 0) :
    (cbcEngine E).transformBytes es d (x1 ++ x2) =
      (((cbcEngine E).transformBytes ((cbcEngine E).transformBytes es d x1).1 d x2).1,
        ((cbcEngine E).transformBytes es d x1).2 ++
          ((cbcEngine E).transformBytes ((cbcEngine E).transformBytes es d x1).1 d x2).2) := by
  have hblocks : (x1 ++ x2).length / 16 = x1.length / 16 + x2.length / 16 := by
    rw [List.length_append]
    omega
  have hwhole : x1.length = 16 * (x1.length / 16) := by omega
  simp only [cbcEngine_transformBytes, hblocks, cbc_append (E es.key) d _ es.cv x2 hwhole]

/-- EC6 for an engine of the CBC structure: a state with the key and chaining value of `es` decrypts what `es`
encrypted (R178). -/
theorem cbcEngine_dec_enc {es' : EngineState} {x : Bytes} (hx : x.length % 16 = 0) (hkey : es'.key = es.key)
    (hcv : es'.cv = es.cv) :
    (cbcEngine E).transformBytes es' .dec ((cbcEngine E).transformBytes es .enc x).2 =
      ({ es' with cv := ((cbcEngine E).transformBytes es .enc x).1.cv }, x) := by
  rw [cbcEngine_transformBytes E es', cbcEngine_length E es .enc hx, hkey, hcv, cbcEngine_transformBytes,
    cbc_dec_enc _ _ (by omega)]

end

/-- Settles O39: cutting (`cbcEngine_append`) and undoing (`cbcEngine_dec_enc`) go by blocks; what is left is read off
the engine's definition, whose results are a function of the key, the chaining value and the run. -/
theorem cbcEngineMeetsTheContract : Obligations.CbcEngineMeetsTheContract := by
  intro E
  exact {
    setKey_key := fun _ _ _ => rfl
    setIv_key := fun _ _ => rfl
    setIv_cv := fun _ _ => rfl
    length := fun es d _ hx => cbcEngine_length E es d hx
    transform_key := fun _ _ _ _ => rfl
    zero := fun es d => by rw [cbcEngine_transformBytes, List.length_nil, Nat.zero_div, cbc_zero]
    cut := fun es d _ x2 hx _ => cbcEngine_append E es d x2 hx
    undo := fun es es' x hx hkey hcv => by rw [cbcEngine_dec_enc E es hx hkey hcv]; exact ⟨rfl, rfl⟩
    same := fun es es' d x _ hkey hcv => by
      rw [cbcEngine_transformBytes, cbcEngine_transformBytes, hkey, hcv]
      exact ⟨rfl, rfl⟩ }

/-- Settles O37, by EC5 (`cbcEngine_append`). -/
theorem engineRunsCanBeCut : Obligations.EngineRunsCanBeCut := by
  intro E es es1 es2 d x1 x2 y1 y2 hx1 _ h1 h2
  rw [cbcEngine_append E es d x2 hx1, h1, h2]

/-- Settles O38, by EC6 (`cbcEngine_dec_enc`). -/
theorem engineDecryptUndoesEncrypt : Obligations.EngineDecryptUndoesEncrypt := by
  intro E es es' es1 x y hx hkey hcv h
  have hundo := cbcEngine_dec_enc E es hx hkey hcv
  rw [h] at hundo
  exact ⟨_, hundo, rfl⟩

end Sys2Proof.Machine
end

section
/-! SUPPORT. What PROCESS and FINISH send on the engine port from any state, sound or not (45_engine_port.md R170 to
R172), and the run of no bytes (R176). -/

namespace Sys2Proof.Machine

/-- Between `l` and `l'` nothing was sent but TRANSFORM requests with the tag `d`. -/
def SentTransforms (d : Dir) (l l' : List Instr) : Prop :=
  ∃ sent, l' = l ++ sent ∧ ∀ q ∈ sent, ∃ off n, q = .transform d off n

theorem SentTransforms.refl (d : Dir) (l : List Instr) : SentTransforms d l l := ⟨[], by simp, nofun⟩

/-- Serving a TRANSFORM sends it and nothing else. -/
theorem SentTransforms.transformed {d : Dir} {l : List Instr} {s : State} (h : SentTransforms d l s.issued)
    (P : Params) (off n : Nat) : SentTransforms d l (transformed P d off n s).issued := by
  obtain ⟨sent, hsent, hq⟩ := h
  refine ⟨sent ++ [.transform d (BitVec.ofNat 32 off) (BitVec.ofNat 32 n)], ?_, fun q hmem => ?_⟩
  · rw [transformed_issued, hsent, List.append_assoc]
  · rcases List.mem_append.1 hmem with hmem | hmem
    · exact hq q hmem
    · exact ⟨_, _, List.mem_singleton.1 hmem⟩

/-- PROCESS sends a TRANSFORM of the session's direction in every pass of its loop, and no other request; without a
session it sends none (R117). -/
theorem processChunk_sentTransforms {P : Params} {chunk : Bytes} {s t : State} (h : processChunk P chunk s = .next t) :
    SentTransforms s.dir s.issued t.issued := by
  cases hp : s.phase with
  | unconfigured =>
    cases h.symm.trans (processChunk_of_unconfigured P chunk hp)
    exact .refl ..
  | configured =>
    rw [processChunk_configured P chunk hp] at h
    exact processLoop_induct (Q := fun t => SentTransforms s.dir s.issued t.issued)
      (fun _ _ u => SentTransforms s.dir s.issued u.issued)
      (fun chunk _ u _ hu _ => by
        rw [consume_issued]
        exact SentTransforms.transformed (s := staged P (stageCount P chunk.length u) chunk u) hu P _ _)
      (fun _ _ hu => hu) (.refl ..) h

/-- FINISH sends one TRANSFORM of the session's direction at most, and no other request; without a session it sends none
(R117). -/
theorem finishAt_sentTransforms {P : Params} {s t : State} (h : finishAt P s = .next t) :
    SentTransforms s.dir s.issued t.issued := by
  cases hp : s.phase with
  | unconfigured =>
    cases h.symm.trans (finishAt_of_unconfigured P hp)
    exact .refl ..
  | configured =>
    obtain ⟨st, out, u, rfl, hu⟩ := finishAt_next_run hp h
    change SentTransforms s.dir s.issued u.issued
    rcases hu with rfl | ⟨-, -, rfl⟩
    · exact .refl ..
    · rw [← finishInput_issued P s]
      exact (SentTransforms.refl ..).transformed P _ _

/-- Settles O41, by the command: FINISH on the state (`finishAt_sentTransforms`), PROCESS on its chunk
(`processChunk_sentTransforms`). -/
theorem processAndFinishSendOnlyTransforms : Obligations.ProcessAndFinishSendOnlyTransforms := by
  rintro i s t (rfl | ⟨n, rfl⟩) h
  · exact finishAt_sentTransforms (P := Config.params) h
  · obtain ⟨chunk, -, h⟩ := processAt_next (P := Config.params) h
    exact processChunk_sentTransforms (s := { s with dataIn := s.dataIn.drop n.toNat }) h

/-- Settles O36: a run of no bytes meets P2 and has no place for P3 to restrict, so it is served (`transformAt_eq`), and
EC4 leaves the engine and the workspace as they were (`transformed_zero`). -/
theorem zeroLengthTransformChangesNothing : Obligations.ZeroLengthTransformChangesNothing := by
  intro d off s hready hdir
  have hserved := transformAt_eq (P := Config.params) (off := off) (n := 0) hready hdir (fun h => absurd rfl h) rfl
    (.inl rfl)
  have hzero := transformed_zero Config.engine_contract d off.toNat s
  rw [BitVec.ofNat_toNat, BitVec.setWidth_eq] at hzero
  exact hserved.trans (congrArg _ hzero)

end Sys2Proof.Machine
end

section
/-! SUPPORT. A NEW that fails (40_construction.md R111, R113, R199): O15. -/

namespace Sys2Proof.Machine

/-- The state that an error of NEW leaves: the configuration, the workspace, the answer and the counter of free values
apart, it is as R199 says. -/
theorem raiseNew_eq (P : Params) (st : Status) (s : State) :
    raiseNew P st s =
      { s with
        phase := .unconfigured, pos := 0, len := 0
        dir := (raiseNew P st s).dir, pad := (raiseNew P st s).pad, klen := (raiseNew P st s).klen
        key := (raiseNew P st s).key, ws := (raiseNew P st s).ws, hostOut := (raiseNew P st s).hostOut
        fresh := (raiseNew P st s).fresh } := rfl

/-- A NEW that leaves no session has raised an error, with its payload consumed (R90, R111). -/
theorem newAt_raises {P : Params} {dir : Dir} {pad ivp : Bool} {ivlen klen : BitVec 8} {s t : State}
    (h : newAt P dir pad ivp ivlen klen s = .next t) (hp : t.phase = .unconfigured) :
    ∃ st, t = raiseNew P st { s with dataIn := s.dataIn.drop (klen.toNat + ivlen.toNat) } := by
  obtain ⟨payload, -, rfl⟩ := newAt_next h
  rcases construct_cases P dir pad (keyOperand klen payload) (ivOperand ivp ivlen klen payload)
    { s with dataIn := s.dataIn.drop (klen.toNat + ivlen.toNat) } with ⟨-, -, hsession⟩ | ⟨-, hfailed⟩
  · rw [hsession] at hp
    cases hp
  · exact hfailed

/-- Settles O15: the answer is the one of the two checks (O13), NEW leaves no session where one of them fails
(`newAt_phase`), so it has raised an error (`newAt_raises`), and the rest is the state that leaves (`raiseNew_eq`). -/
theorem failedNewEndsTheSession : Obligations.FailedNewEndsTheSession := by
  intro dir pad ivp ivlen klen s hn hillegal
  obtain ⟨t, h, hout⟩ := newChecksKeyThenIv dir pad ivp ivlen klen s hn
  have hanswer : t.hostOut = s.hostOut ++
      [.response (if klen ≠ 16 ∧ klen ≠ 24 ∧ klen ≠ 32 then 0x10000000#32 else 0x20000000#32)] := by
    rw [hout]
    split
    · rfl
    · rename_i hkey
      rw [if_pos (hillegal.resolve_left hkey)]
  have hphase : t.phase = .unconfigured := by
    refine (newAt_phase (P := Config.params) h).trans (if_neg fun ⟨hkey, hiv⟩ => ?_)
    rcases hillegal with ⟨h16, h24, h32⟩ | ⟨hivp, hivlen⟩
    · exact hkey.elim h16 (·.elim h24 h32)
    · exact hivlen (hiv hivp)
  refine ⟨t, h, ?_⟩
  rw [← hanswer]
  obtain ⟨st, rfl⟩ := newAt_raises (P := Config.params) h hphase
  exact raiseNew_eq ..

end Sys2Proof.Machine
end
